-- ==== Sys2Proof/Word.lean ====
section
/-! DEFINITION. The word types of 00_scope.md R6, R8 and the operand width of R12. -/

namespace Sys2Proof

/-- A 16-bit word: a register, an address, the PSW (R6). -/
abbrev Word := BitVec 16

/-- An 8-bit byte of memory (R6, R8). -/
abbrev Byte := BitVec 8

/-- A 32-bit long-word, formed from two registers (R6). -/
abbrev Long := BitVec 32

/-- The operand width of an instruction or of a bus access: one byte or one word (R12, R14). -/
inductive Width where
  | byte
  | word
deriving DecidableEq, Repr

end Sys2Proof
end

