-- ==== Sys2Proof/Config.lean ====
section
/-! DEFINITION. What no rule of the spec fixes and no program can know: the free values. Each is a constant
without a body, so a claim that holds for it holds whatever it is. The launch parameters of 00_scope.md R6 are
not here: they are the field `params` of `State`, so that every claim over states holds for every setting. -/

namespace Sys2Proof

/-- What the `k`-th free value is when a device's reader handler supplies it: "a model takes it as a draw (any
8n-bit value)" (20_memory.md R78, D14). The step supplies `k` from the counter `State.draws`. Log 7. -/
opaque Config.deviceRead : Nat → Word

/-- What the `k`-th free value is when it is one bit the spec leaves as "any": N and Z after DIV with V = 1
(44_rss.md R311, D19), the choice for the quotient -32768 (D20), V of SBC (43_single_operand.md R271, D21).
The step supplies `k` from the counter `State.draws`. Log 9. -/
opaque Config.freeFlag : Nat → Bool

end Sys2Proof
end

