-- ==== Sys2Proof/Syntax.lean ====
section
/-! DEFINITION. The syntax: registers, addressing modes, operand specifiers, and the ONE type of instructions,
one constructor for each row of spec/opcode_table.json, in the table's order. An instruction is its first word
only: extension words are fetched while it executes (30_encoding.md R110, R402; log 15). -/

namespace Sys2Proof

/-- The eight general registers; R6 is the stack pointer and R7 the program counter (10_state.md R30). -/
inductive Reg where
  | r0 | r1 | r2 | r3 | r4 | r5 | r6 | r7
deriving DecidableEq, Repr

/-- The eight addressing modes, in the order of their codes 0 to 7 (40_addressing_modes.md R161, R167). -/
inductive Mode where
  | register | deferred | autoInc | autoIncDeferred | autoDec | autoDecDeferred | index | indexDeferred
deriving DecidableEq, Repr

/-- A 6-bit operand specifier: a mode and a register (30_encoding.md R112). -/
structure Specifier where
  mode : Mode
  reg  : Reg
deriving DecidableEq, Repr

/-- The instructions whose execution is `Unimplemented(mnemonic)` (42_no_operand.md R240). -/
inductive Stub where
  | mark | mfpi | mtpi | mfpd | mtpd | reset
deriving DecidableEq, Repr

/-- The instructions. A branch's `off` is its signed 8-bit word offset (R116), `mask` is N Z V C from bit 3 to
bit 0 (R119), `nn` is the unsigned 6-bit field of SOB (R117) and MARK (R121). -/
inductive Instr where
  -- the Branch family
  /-- BR: branch always (R202). -/
  | br (off : BitVec 8)
  /-- BNE: branch if not equal (R203). -/
  | bne (off : BitVec 8)
  /-- BEQ: branch if equal (R204). -/
  | beq (off : BitVec 8)
  /-- BGE: branch if greater or equal, signed (R205). -/
  | bge (off : BitVec 8)
  /-- BLT: branch if less, signed (R206). -/
  | blt (off : BitVec 8)
  /-- BGT: branch if greater, signed (R207). -/
  | bgt (off : BitVec 8)
  /-- BLE: branch if less or equal, signed (R208). -/
  | ble (off : BitVec 8)
  /-- BPL: branch if plus (R209). -/
  | bpl (off : BitVec 8)
  /-- BMI: branch if minus (R210). -/
  | bmi (off : BitVec 8)
  /-- BHI: branch if higher, unsigned (R211). -/
  | bhi (off : BitVec 8)
  /-- BLOS: branch if lower or same, unsigned (R212). -/
  | blos (off : BitVec 8)
  /-- BVC: branch if overflow clear (R213). -/
  | bvc (off : BitVec 8)
  /-- BVS: branch if overflow set (R214). -/
  | bvs (off : BitVec 8)
  /-- BCC: branch if carry clear (R215). -/
  | bcc (off : BitVec 8)
  /-- BCS: branch if carry set (R216). -/
  | bcs (off : BitVec 8)
  /-- BHIS: another spelling of words of BCC (R215). -/
  | bhis (off : BitVec 8)
  /-- BLO: another spelling of words of BCS (R216). -/
  | blo (off : BitVec 8)
  -- the Condition-Code family
  /-- Cx: clear the condition codes the mask selects (R371). -/
  | cx (mask : BitVec 4)
  /-- Sx: set the condition codes the mask selects (R372). -/
  | sx (mask : BitVec 4)
  /-- CLC: another spelling of words of Cx (R371). -/
  | clc
  /-- CLV: another spelling of words of Cx (R371). -/
  | clv
  /-- CLZ: another spelling of words of Cx (R371). -/
  | clz
  /-- CLN: another spelling of words of Cx (R371). -/
  | cln
  /-- CCC: another spelling of words of Cx (R371). -/
  | ccc
  /-- SEC: another spelling of words of Sx (R372). -/
  | sec
  /-- SEV: another spelling of words of Sx (R372). -/
  | sev
  /-- SEZ: another spelling of words of Sx (R372). -/
  | sez
  /-- SEN: another spelling of words of Sx (R372). -/
  | sen
  /-- SCC: another spelling of words of Sx (R372). -/
  | scc
  -- the No-Operand family
  /-- HALT: halt (R230). -/
  | halt
  /-- WAIT: wait (R231). -/
  | wait
  /-- RTI: return from interrupt (R232). -/
  | rti
  /-- BPT: breakpoint trap (R233). -/
  | bpt
  /-- IOT: input/output trap (R234). -/
  | iot
  /-- RESET: reset (a stub) (R235). -/
  | reset
  /-- RTT: return from trap (R237). -/
  | rtt
  /-- NOP: no operation; 0o000240 belongs to Cx (R138) (R243). -/
  | nop
  -- the Single-Operand family
  /-- JMP: jump (R261). -/
  | jmp (dst : Specifier)
  /-- SWAB: swap bytes (R262). -/
  | swab (dst : Specifier)
  /-- CLR: clear (R264). -/
  | clr (dst : Specifier)
  /-- COM: complement (R265). -/
  | com (dst : Specifier)
  /-- INC: increment (R267). -/
  | inc (dst : Specifier)
  /-- DEC: decrement (R268). -/
  | dec (dst : Specifier)
  /-- NEG: negate (R269). -/
  | neg (dst : Specifier)
  /-- ADC: add carry (R270). -/
  | adc (dst : Specifier)
  /-- SBC: subtract carry (R271). -/
  | sbc (dst : Specifier)
  /-- TST: test (R266). -/
  | tst (dst : Specifier)
  /-- ROR: rotate right through carry (R272). -/
  | ror (dst : Specifier)
  /-- ROL: rotate left through carry (R273). -/
  | rol (dst : Specifier)
  /-- ASR: arithmetic shift right (R274). -/
  | asr (dst : Specifier)
  /-- ASL: arithmetic shift left (R275). -/
  | asl (dst : Specifier)
  /-- MFPI: move from previous instruction space (a stub) (R291). -/
  | mfpi (src : Specifier)
  /-- MTPI: move to previous instruction space (a stub) (R292). -/
  | mtpi (dst : Specifier)
  /-- SXT: sign extend (R263). -/
  | sxt (dst : Specifier)
  /-- CLRB: clear, byte (R264). -/
  | clrb (dst : Specifier)
  /-- COMB: complement, byte (R265). -/
  | comb (dst : Specifier)
  /-- INCB: increment, byte (R267). -/
  | incb (dst : Specifier)
  /-- DECB: decrement, byte (R268). -/
  | decb (dst : Specifier)
  /-- NEGB: negate, byte (R269). -/
  | negb (dst : Specifier)
  /-- ADCB: add carry, byte (R270). -/
  | adcb (dst : Specifier)
  /-- SBCB: subtract carry, byte (R271). -/
  | sbcb (dst : Specifier)
  /-- TSTB: test, byte (R266). -/
  | tstb (dst : Specifier)
  /-- RORB: rotate right through carry, byte (R272). -/
  | rorb (dst : Specifier)
  /-- ROLB: rotate left through carry, byte (R273). -/
  | rolb (dst : Specifier)
  /-- ASRB: arithmetic shift right, byte (R274). -/
  | asrb (dst : Specifier)
  /-- ASLB: arithmetic shift left, byte (R275). -/
  | aslb (dst : Specifier)
  /-- MFPD: move from previous data space (a stub) (R293). -/
  | mfpd (src : Specifier)
  /-- MTPD: move to previous data space (a stub) (R294). -/
  | mtpd (dst : Specifier)
  -- the RSS family
  /-- MUL: multiply (R310). -/
  | mul (r : Reg) (src : Specifier)
  /-- DIV: divide (R311). -/
  | div (r : Reg) (src : Specifier)
  /-- ASH: arithmetic shift (R313). -/
  | ash (r : Reg) (src : Specifier)
  /-- ASHC: arithmetic shift combined (R314). -/
  | ashc (r : Reg) (src : Specifier)
  /-- XOR: exclusive or (R326). -/
  | xor (r : Reg) (dst : Specifier)
  /-- SOB: subtract one and branch (R327). -/
  | sob (r : Reg) (nn : BitVec 6)
  -- the SSDD family
  /-- MOV: move (R341). -/
  | mov (src dst : Specifier)
  /-- CMP: compare (R342). -/
  | cmp (src dst : Specifier)
  /-- BIT: bit test (R343). -/
  | bit (src dst : Specifier)
  /-- BIC: bit clear (R344). -/
  | bic (src dst : Specifier)
  /-- BIS: bit set (R345). -/
  | bis (src dst : Specifier)
  /-- ADD: add (R346). -/
  | add (src dst : Specifier)
  /-- MOVB: move, byte (R341). -/
  | movb (src dst : Specifier)
  /-- CMPB: compare, byte (R342). -/
  | cmpb (src dst : Specifier)
  /-- BITB: bit test, byte (R343). -/
  | bitb (src dst : Specifier)
  /-- BICB: bit clear, byte (R344). -/
  | bicb (src dst : Specifier)
  /-- BISB: bit set, byte (R345). -/
  | bisb (src dst : Specifier)
  /-- SUB: subtract (R347). -/
  | sub (src dst : Specifier)
  -- the Other family
  /-- JSR: jump to subroutine (R380). -/
  | jsr (r : Reg) (dst : Specifier)
  /-- RTS: return from subroutine (R381). -/
  | rts (r : Reg)
  /-- MARK: stack cleanup (a stub) (R384). -/
  | mark (nn : BitVec 6)
deriving DecidableEq, Repr

end Sys2Proof
end

