-- ==== Sys2Proof/WellFormed.lean ====
section
/-! DEFINITION. Which terms of `Instr` are well formed: the spelling is the one the decoder answers, and the
operand form is none of the illegal ones of 30_encoding.md R141. An illegal form still decodes and has its
meaning: the stop its rule names. -/

namespace Sys2Proof

/-- `R` is an odd register: not the even half of a pair (44_rss.md preamble). -/
def Reg.isOdd : Reg → Bool
  | .r0 | .r2 | .r4 | .r6 => false
  | .r1 | .r3 | .r5 | .r7 => true

/-- The constructor is only another spelling of words that another row claims: the alias rows of
spec/opcode_table.json (30_encoding.md R145) and NOP, whose word the Condition-Code family claims first (R138). -/
def Instr.isAlias : Instr → Bool
  | .bhis _ | .blo _ | .clc | .clv | .clz | .cln | .ccc | .sec | .sev | .sez | .sen | .scc | .nop => true
  | .br _ | .bne _ | .beq _ | .bge _ | .blt _ | .bgt _ | .ble _ | .bpl _ | .bmi _ | .bhi _ | .blos _ | .bvc _
    | .bvs _ | .bcc _ | .bcs _ | .cx _ | .sx _ | .halt | .wait | .rti | .bpt | .iot | .reset | .rtt | .jmp _ |
    .swab _ | .clr _ | .com _ | .inc _ | .dec _ | .neg _ | .adc _ | .sbc _ | .tst _ | .ror _ | .rol _ | .asr _
    | .asl _ | .mfpi _ | .mtpi _ | .sxt _ | .clrb _ | .comb _ | .incb _ | .decb _ | .negb _ | .adcb _ | .sbcb
    _ | .tstb _ | .rorb _ | .rolb _ | .asrb _ | .aslb _ | .mfpd _ | .mtpd _ | .mul _ _ | .div _ _ | .ash _ _ |
    .ashc _ _ | .xor _ _ | .sob _ _ | .mov _ _ | .cmp _ _ | .bit _ _ | .bic _ _ | .bis _ _ | .add _ _ | .movb
    _ _ | .cmpb _ _ | .bitb _ _ | .bicb _ _ | .bisb _ _ | .sub _ _ | .jsr _ _ | .rts _ | .mark _ => false

/-- The operand form is legal: JMP and JSR have no mode 0, DIV has no odd register; "No other claimed encoding
has an illegal field value" (30_encoding.md R141). -/
def Instr.legalForm : Instr → Bool
  | .jmp dst => decide (dst.mode ≠ .register)
  | .jsr _ dst => decide (dst.mode ≠ .register)
  | .div r _ => !r.isOdd
  | .br _ | .bne _ | .beq _ | .bge _ | .blt _ | .bgt _ | .ble _ | .bpl _ | .bmi _ | .bhi _ | .blos _ | .bvc _
    | .bvs _ | .bcc _ | .bcs _ | .bhis _ | .blo _ | .cx _ | .sx _ | .clc | .clv | .clz | .cln | .ccc | .sec |
    .sev | .sez | .sen | .scc | .halt | .wait | .rti | .bpt | .iot | .reset | .rtt | .nop | .swab _ | .clr _ |
    .com _ | .inc _ | .dec _ | .neg _ | .adc _ | .sbc _ | .tst _ | .ror _ | .rol _ | .asr _ | .asl _ | .mfpi _
    | .mtpi _ | .sxt _ | .clrb _ | .comb _ | .incb _ | .decb _ | .negb _ | .adcb _ | .sbcb _ | .tstb _ | .rorb
    _ | .rolb _ | .asrb _ | .aslb _ | .mfpd _ | .mtpd _ | .mul _ _ | .ash _ _ | .ashc _ _ | .xor _ _ | .sob _
    _ | .mov _ _ | .cmp _ _ | .bit _ _ | .bic _ _ | .bis _ _ | .add _ _ | .movb _ _ | .cmpb _ _ | .bitb _ _ |
    .bicb _ _ | .bisb _ _ | .sub _ _ | .rts _ | .mark _ => true

/-- The well-formedness check: the decoder's spelling, and a legal operand form. -/
def Instr.wellFormed (i : Instr) : Bool :=
  !i.isAlias && i.legalForm

end Sys2Proof
end

