-- ==== Sys2Proof/Decode.lean ====
section
/-! DEFINITION. The decoder and the encoder (30_encoding.md). The decoder is the seven family decoders in the
fixed precedence of R130; it is total on any bytes and names what it rejects. The encoder is written from the
format tables of R114 and the opcode columns of R131 to R137. -/

namespace Sys2Proof

/-! ### Fields -/

/-- The register a 3-bit field names (R112). -/
def Reg.ofBits (b : BitVec 3) : Reg :=
  match b.toNat with
  | 0 => .r0
  | 1 => .r1
  | 2 => .r2
  | 3 => .r3
  | 4 => .r4
  | 5 => .r5
  | 6 => .r6
  | _ => .r7

/-- The 3-bit field that names a register (R112). -/
def Reg.bits : Reg → BitVec 3
  | .r0 => 0
  | .r1 => 1
  | .r2 => 2
  | .r3 => 3
  | .r4 => 4
  | .r5 => 5
  | .r6 => 6
  | .r7 => 7

/-- The addressing mode a 3-bit field names (40_addressing_modes.md R161, R167). -/
def Mode.ofBits (b : BitVec 3) : Mode :=
  match b.toNat with
  | 0 => .register
  | 1 => .deferred
  | 2 => .autoInc
  | 3 => .autoIncDeferred
  | 4 => .autoDec
  | 5 => .autoDecDeferred
  | 6 => .index
  | _ => .indexDeferred

/-- The 3-bit field of an addressing mode. -/
def Mode.bits : Mode → BitVec 3
  | .register => 0
  | .deferred => 1
  | .autoInc => 2
  | .autoIncDeferred => 3
  | .autoDec => 4
  | .autoDecDeferred => 5
  | .index => 6
  | .indexDeferred => 7

/-- A 6-bit operand specifier: bits 5-3 the mode, bits 2-0 the register (R112). -/
def Specifier.ofBits (b : BitVec 6) : Specifier :=
  ⟨Mode.ofBits (b.extractLsb' 3 3), Reg.ofBits (b.extractLsb' 0 3)⟩

/-- The 6 bits of an operand specifier (R112). -/
def Specifier.bits (o : Specifier) : BitVec 6 :=
  o.mode.bits ++ o.reg.bits

/-- The destination, or only, specifier: `ir[5:0]` (R112). -/
def fieldDst (w : Word) : Specifier := Specifier.ofBits (w.extractLsb' 0 6)

/-- The source specifier of SSDD: `ir[11:6]` (R112). -/
def fieldSrc (w : Word) : Specifier := Specifier.ofBits (w.extractLsb' 6 6)

/-- The register field `ir[8:6]` of RSS, SOB and JSR (R121). -/
def fieldReg (w : Word) : Reg := Reg.ofBits (w.extractLsb' 6 3)

/-- The unsigned field `ir[5:0]` of SOB and MARK (R117, R121). -/
def fieldNn (w : Word) : BitVec 6 := w.extractLsb' 0 6

/-! ### The family decoders -/

/-- Branch family (R131): `ir & 0o177400` selects, the low byte is the offset. -/
def decodeBranch (w : Word) : Option Instr :=
  let off := w.extractLsb' 0 8
  match (w &&& 0o177400).toNat with
  | 0o000400 => some (.br off)
  | 0o001000 => some (.bne off)
  | 0o001400 => some (.beq off)
  | 0o002000 => some (.bge off)
  | 0o002400 => some (.blt off)
  | 0o003000 => some (.bgt off)
  | 0o003400 => some (.ble off)
  | 0o100000 => some (.bpl off)
  | 0o100400 => some (.bmi off)
  | 0o101000 => some (.bhi off)
  | 0o101400 => some (.blos off)
  | 0o102000 => some (.bvc off)
  | 0o102400 => some (.bvs off)
  | 0o103000 => some (.bcc off)
  | 0o103400 => some (.bcs off)
  | _ => none

/-- Condition-Code family (R132): the words 0o000240 to 0o000277; bit 4 selects set, `ir[3:0]` is the mask
(R119, C3). -/
def decodeConditionCode (w : Word) : Option Instr :=
  if 0o000240 ≤ w.toNat ∧ w.toNat ≤ 0o000277 then
    some (if w.getLsbD 4 then .sx (w.extractLsb' 0 4) else .cx (w.extractLsb' 0 4))
  else none

/-- No-Operand family (R133): exact words. -/
def decodeNoOperand (w : Word) : Option Instr :=
  match w.toNat with
  | 0o000000 => some .halt
  | 0o000001 => some .wait
  | 0o000002 => some .rti
  | 0o000003 => some .bpt
  | 0o000004 => some .iot
  | 0o000005 => some .reset
  | 0o000006 => some .rtt
  | 0o000240 => some .nop
  | _ => none

/-- Single-Operand family (R134): `ir[15:6]` selects. -/
def decodeSingleOperand (w : Word) : Option Instr :=
  let o := fieldDst w
  match (w.extractLsb' 6 10).toNat with
  | 0o0001 => some (.jmp o)
  | 0o0003 => some (.swab o)
  | 0o0050 => some (.clr o)
  | 0o0051 => some (.com o)
  | 0o0052 => some (.inc o)
  | 0o0053 => some (.dec o)
  | 0o0054 => some (.neg o)
  | 0o0055 => some (.adc o)
  | 0o0056 => some (.sbc o)
  | 0o0057 => some (.tst o)
  | 0o0060 => some (.ror o)
  | 0o0061 => some (.rol o)
  | 0o0062 => some (.asr o)
  | 0o0063 => some (.asl o)
  | 0o0065 => some (.mfpi o)
  | 0o0066 => some (.mtpi o)
  | 0o0067 => some (.sxt o)
  | 0o1050 => some (.clrb o)
  | 0o1051 => some (.comb o)
  | 0o1052 => some (.incb o)
  | 0o1053 => some (.decb o)
  | 0o1054 => some (.negb o)
  | 0o1055 => some (.adcb o)
  | 0o1056 => some (.sbcb o)
  | 0o1057 => some (.tstb o)
  | 0o1060 => some (.rorb o)
  | 0o1061 => some (.rolb o)
  | 0o1062 => some (.asrb o)
  | 0o1063 => some (.aslb o)
  | 0o1065 => some (.mfpd o)
  | 0o1066 => some (.mtpd o)
  | _ => none

/-- RSS family (R135): `ir[15:9]` selects. -/
def decodeRss (w : Word) : Option Instr :=
  let r := fieldReg w
  let o := fieldDst w
  match (w.extractLsb' 9 7).toNat with
  | 0o070 => some (.mul r o)
  | 0o071 => some (.div r o)
  | 0o072 => some (.ash r o)
  | 0o073 => some (.ashc r o)
  | 0o074 => some (.xor r o)
  | 0o077 => some (.sob r (fieldNn w))
  | _ => none

/-- SSDD family (R136): `ir[15:12]` selects. -/
def decodeSsdd (w : Word) : Option Instr :=
  let s := fieldSrc w
  let d := fieldDst w
  match (w.extractLsb' 12 4).toNat with
  | 0o01 => some (.mov s d)
  | 0o02 => some (.cmp s d)
  | 0o03 => some (.bit s d)
  | 0o04 => some (.bic s d)
  | 0o05 => some (.bis s d)
  | 0o06 => some (.add s d)
  | 0o11 => some (.movb s d)
  | 0o12 => some (.cmpb s d)
  | 0o13 => some (.bitb s d)
  | 0o14 => some (.bicb s d)
  | 0o15 => some (.bisb s d)
  | 0o16 => some (.sub s d)
  | _ => none

/-- Other family (R137): JSR, RTS, MARK. -/
def decodeOther (w : Word) : Option Instr :=
  if (w.extractLsb' 9 7).toNat = 0o004 then some (.jsr (fieldReg w) (fieldDst w))
  else if (w.extractLsb' 3 13).toNat = 0o00020 then some (.rts (Reg.ofBits (w.extractLsb' 0 3)))
  else if (w.extractLsb' 6 10).toNat = 0o0064 then some (.mark (fieldNn w))
  else none

/-- The seven families, in the precedence order of R130. -/
inductive Family where
  | branch | conditionCode | noOperand | singleOperand | rss | ssdd | other
deriving DecidableEq, Repr

/-- The decoder of each family; a family matches a word exactly when its decoder answers (48_cpu_driver.md R403). -/
def Family.decode : Family → Word → Option Instr
  | .branch => decodeBranch
  | .conditionCode => decodeConditionCode
  | .noOperand => decodeNoOperand
  | .singleOperand => decodeSingleOperand
  | .rss => decodeRss
  | .ssdd => decodeSsdd
  | .other => decodeOther

/-- The fixed precedence in which the driver tries the families (R130). -/
def Family.precedence : List Family :=
  [.branch, .conditionCode, .noOperand, .singleOperand, .rss, .ssdd, .other]

/-- The first family whose decoder claims the word: `classify_and_dispatch` (48_cpu_driver.md R402). -/
def classify (w : Word) : Option Family :=
  Family.precedence.find? fun f => (f.decode w).isSome

/-- Why the decoder rejects: too few bytes for a word, or a word no family claims (R140). -/
inductive DecodeError where
  | truncated
  | unknownOpcode (ir : Word)
deriving DecidableEq, Repr

/-- The instruction of one instruction word, or its rejection by name. -/
def decodeWord (w : Word) : Except DecodeError Instr :=
  match classify w with
  | some f =>
    match f.decode w with
    | some i => .ok i
    | none => .error (.unknownOpcode w)
  | none => .error (.unknownOpcode w)

/-- The word two bytes make, the first at the lower address (20_memory.md R75: little-endian). -/
def wordOfBytes (lo hi : Byte) : Word := hi ++ lo

/-- The decoder on a list of bytes: the instruction and the bytes after its instruction word (R110). Extension
words are left in the rest: the instruction fetches them while it executes (log 15). -/
def decodeBytes : List Byte → Except DecodeError (Instr × List Byte)
  | lo :: hi :: rest =>
    match decodeWord (wordOfBytes lo hi) with
    | .ok i => .ok (i, rest)
    | .error e => .error e
  | _ => .error .truncated

/-! ### The encoder -/

/-- The instruction a constructor stands for: an alias spelling names words of another row (R145, R138). -/
def Instr.core : Instr → Instr
  | .br off => .br off
  | .bne off => .bne off
  | .beq off => .beq off
  | .bge off => .bge off
  | .blt off => .blt off
  | .bgt off => .bgt off
  | .ble off => .ble off
  | .bpl off => .bpl off
  | .bmi off => .bmi off
  | .bhi off => .bhi off
  | .blos off => .blos off
  | .bvc off => .bvc off
  | .bvs off => .bvs off
  | .bcc off => .bcc off
  | .bcs off => .bcs off
  | .bhis off => .bcc off
  | .blo off => .bcs off
  | .cx mask => .cx mask
  | .sx mask => .sx mask
  | .clc => .cx 0b0001
  | .clv => .cx 0b0010
  | .clz => .cx 0b0100
  | .cln => .cx 0b1000
  | .ccc => .cx 0b1111
  | .sec => .sx 0b0001
  | .sev => .sx 0b0010
  | .sez => .sx 0b0100
  | .sen => .sx 0b1000
  | .scc => .sx 0b1111
  | .halt => .halt
  | .wait => .wait
  | .rti => .rti
  | .bpt => .bpt
  | .iot => .iot
  | .reset => .reset
  | .rtt => .rtt
  | .nop => .cx 0b0000
  | .jmp dst => .jmp dst
  | .swab dst => .swab dst
  | .clr dst => .clr dst
  | .com dst => .com dst
  | .inc dst => .inc dst
  | .dec dst => .dec dst
  | .neg dst => .neg dst
  | .adc dst => .adc dst
  | .sbc dst => .sbc dst
  | .tst dst => .tst dst
  | .ror dst => .ror dst
  | .rol dst => .rol dst
  | .asr dst => .asr dst
  | .asl dst => .asl dst
  | .mfpi src => .mfpi src
  | .mtpi dst => .mtpi dst
  | .sxt dst => .sxt dst
  | .clrb dst => .clrb dst
  | .comb dst => .comb dst
  | .incb dst => .incb dst
  | .decb dst => .decb dst
  | .negb dst => .negb dst
  | .adcb dst => .adcb dst
  | .sbcb dst => .sbcb dst
  | .tstb dst => .tstb dst
  | .rorb dst => .rorb dst
  | .rolb dst => .rolb dst
  | .asrb dst => .asrb dst
  | .aslb dst => .aslb dst
  | .mfpd src => .mfpd src
  | .mtpd dst => .mtpd dst
  | .mul r src => .mul r src
  | .div r src => .div r src
  | .ash r src => .ash r src
  | .ashc r src => .ashc r src
  | .xor r dst => .xor r dst
  | .sob r nn => .sob r nn
  | .mov src dst => .mov src dst
  | .cmp src dst => .cmp src dst
  | .bit src dst => .bit src dst
  | .bic src dst => .bic src dst
  | .bis src dst => .bis src dst
  | .add src dst => .add src dst
  | .movb src dst => .movb src dst
  | .cmpb src dst => .cmpb src dst
  | .bitb src dst => .bitb src dst
  | .bicb src dst => .bicb src dst
  | .bisb src dst => .bisb src dst
  | .sub src dst => .sub src dst
  | .jsr r dst => .jsr r dst
  | .rts r => .rts r
  | .mark nn => .mark nn

/-- The instruction word, from the formats of R114 and the opcode values of R131 to R137 (and R145 for the
named condition-code operators): the fixed field, then the fields in order from the most significant bit. -/
def encodeWord : Instr → Word
  | .br off => 0o1#8 ++ off
  | .bne off => 0o2#8 ++ off
  | .beq off => 0o3#8 ++ off
  | .bge off => 0o4#8 ++ off
  | .blt off => 0o5#8 ++ off
  | .bgt off => 0o6#8 ++ off
  | .ble off => 0o7#8 ++ off
  | .bpl off => 0o200#8 ++ off
  | .bmi off => 0o201#8 ++ off
  | .bhi off => 0o202#8 ++ off
  | .blos off => 0o203#8 ++ off
  | .bvc off => 0o204#8 ++ off
  | .bvs off => 0o205#8 ++ off
  | .bcc off => 0o206#8 ++ off
  | .bcs off => 0o207#8 ++ off
  | .bhis off => 0o206#8 ++ off
  | .blo off => 0o207#8 ++ off
  | .cx mask => 0o12#12 ++ mask
  | .sx mask => 0o13#12 ++ mask
  | .clc => 0o241#16
  | .clv => 0o242#16
  | .clz => 0o244#16
  | .cln => 0o250#16
  | .ccc => 0o257#16
  | .sec => 0o261#16
  | .sev => 0o262#16
  | .sez => 0o264#16
  | .sen => 0o270#16
  | .scc => 0o277#16
  | .halt => 0o0#16
  | .wait => 0o1#16
  | .rti => 0o2#16
  | .bpt => 0o3#16
  | .iot => 0o4#16
  | .reset => 0o5#16
  | .rtt => 0o6#16
  | .nop => 0o240#16
  | .jmp dst => 0o1#10 ++ dst.bits
  | .swab dst => 0o3#10 ++ dst.bits
  | .clr dst => 0o50#10 ++ dst.bits
  | .com dst => 0o51#10 ++ dst.bits
  | .inc dst => 0o52#10 ++ dst.bits
  | .dec dst => 0o53#10 ++ dst.bits
  | .neg dst => 0o54#10 ++ dst.bits
  | .adc dst => 0o55#10 ++ dst.bits
  | .sbc dst => 0o56#10 ++ dst.bits
  | .tst dst => 0o57#10 ++ dst.bits
  | .ror dst => 0o60#10 ++ dst.bits
  | .rol dst => 0o61#10 ++ dst.bits
  | .asr dst => 0o62#10 ++ dst.bits
  | .asl dst => 0o63#10 ++ dst.bits
  | .mfpi src => 0o65#10 ++ src.bits
  | .mtpi dst => 0o66#10 ++ dst.bits
  | .sxt dst => 0o67#10 ++ dst.bits
  | .clrb dst => 0o1050#10 ++ dst.bits
  | .comb dst => 0o1051#10 ++ dst.bits
  | .incb dst => 0o1052#10 ++ dst.bits
  | .decb dst => 0o1053#10 ++ dst.bits
  | .negb dst => 0o1054#10 ++ dst.bits
  | .adcb dst => 0o1055#10 ++ dst.bits
  | .sbcb dst => 0o1056#10 ++ dst.bits
  | .tstb dst => 0o1057#10 ++ dst.bits
  | .rorb dst => 0o1060#10 ++ dst.bits
  | .rolb dst => 0o1061#10 ++ dst.bits
  | .asrb dst => 0o1062#10 ++ dst.bits
  | .aslb dst => 0o1063#10 ++ dst.bits
  | .mfpd src => 0o1065#10 ++ src.bits
  | .mtpd dst => 0o1066#10 ++ dst.bits
  | .mul r src => 0o70#7 ++ r.bits ++ src.bits
  | .div r src => 0o71#7 ++ r.bits ++ src.bits
  | .ash r src => 0o72#7 ++ r.bits ++ src.bits
  | .ashc r src => 0o73#7 ++ r.bits ++ src.bits
  | .xor r dst => 0o74#7 ++ r.bits ++ dst.bits
  | .sob r nn => 0o77#7 ++ r.bits ++ nn
  | .mov src dst => 0o1#4 ++ src.bits ++ dst.bits
  | .cmp src dst => 0o2#4 ++ src.bits ++ dst.bits
  | .bit src dst => 0o3#4 ++ src.bits ++ dst.bits
  | .bic src dst => 0o4#4 ++ src.bits ++ dst.bits
  | .bis src dst => 0o5#4 ++ src.bits ++ dst.bits
  | .add src dst => 0o6#4 ++ src.bits ++ dst.bits
  | .movb src dst => 0o11#4 ++ src.bits ++ dst.bits
  | .cmpb src dst => 0o12#4 ++ src.bits ++ dst.bits
  | .bitb src dst => 0o13#4 ++ src.bits ++ dst.bits
  | .bicb src dst => 0o14#4 ++ src.bits ++ dst.bits
  | .bisb src dst => 0o15#4 ++ src.bits ++ dst.bits
  | .sub src dst => 0o16#4 ++ src.bits ++ dst.bits
  | .jsr r dst => 0o4#7 ++ r.bits ++ dst.bits
  | .rts r => 0o20#13 ++ r.bits
  | .mark nn => 0o64#10 ++ nn

/-- The words of an instruction that its term determines: the instruction word. Its extension words are data of
the instruction stream (R110, R120). -/
def encode (i : Instr) : List Word := [encodeWord i]

/-! ### Lengths -/

/-- Extension words an operand specifier adds: one for modes 6 and 7, one for modes 2 and 3 with R7 (R111). -/
def Specifier.extensionWords (o : Specifier) : Nat :=
  match o.mode with
  | .index | .indexDeferred => 1
  | .autoInc | .autoIncDeferred => if o.reg = .r7 then 1 else 0
  | .register | .deferred | .autoDec | .autoDecDeferred => 0

/-! ### The host's view of the decoder -/

/-- The bytes of `n` words taken from a number, the first word in its low 16 bits, each word in the hardware's
byte order (20_memory.md R75). -/
def bytesOfNat : Nat → Nat → List Byte
  | 0, _ => []
  | n + 1, x => BitVec.ofNat 8 x :: BitVec.ofNat 8 (x / 256) :: bytesOfNat n (x / 65536)

/-- The bytes of an instruction whose low `nbits` bits are those of `w` and whose other bits, up to the longest
instruction of three words (R110), are zero. -/
def tableBytes (nbits w : Nat) : List Byte := bytesOfNat 3 (w % 2 ^ nbits)

/-- The instruction the decoder reads from those bytes. -/
def decodeTableWord (nbits w : Nat) : Option Instr :=
  match decodeBytes (tableBytes nbits w) with
  | .ok (i, _) => some i
  | .error _ => none

end Sys2Proof
end

