-- ==== Sys2Proof/Machine/Bits.lean ====
section
/-! DEFINITION. Bits: masks, signs, extensions and the readings of words as numbers (00_scope.md R9 to R12). -/

namespace Sys2Proof.Machine

open Sys2Proof

/-- `bits(w)`: 8 or 16 (R12). -/
def bitsOf : Width → Nat
  | .byte => 8
  | .word => 16

/-- `mask(w)`: 0o377 or 0o177777 (R12). -/
def maskOf : Width → Word
  | .byte => 0o377
  | .word => 0o177777

/-- `sign(w)`: 0o200 or 0o100000 (R12). -/
def signOf : Width → Word
  | .byte => 0o200
  | .word => 0o100000

/-- `v & mask(w)`. A byte value is held in a word with a zero high byte. -/
def truncTo (w : Width) (v : Word) : Word := v &&& maskOf w

/-- `msb(w, v) = v[bits(w)-1]` (R12). -/
def msbOf : Width → Word → Bool
  | .byte, v => v.getLsbD 7
  | .word, v => v.getLsbD 15

/-- `v & mask(w) = 0` (R17). -/
def isZeroAt (w : Width) (v : Word) : Bool := truncTo w v == 0

/-- The low byte `v[7:0]`. -/
def lowByte (v : Word) : Byte := v.extractLsb' 0 8

/-- The high byte `v[15:8]`. -/
def highByte (v : Word) : Byte := v.extractLsb' 8 8

/-- `zext_16` of a byte (R10). -/
def zext (b : Byte) : Word := b.setWidth 16

/-- `sext_16` of a byte (R10). -/
def sext (b : Byte) : Word := b.signExtend 16

/-- The long-word `hi ++ lo` of a register pair (R8). -/
def longOf (hi lo : Word) : Long := hi ++ lo

/-- `l[31:16]`. -/
def highWord (l : Long) : Word := l.extractLsb' 16 16

/-- `l[15:0]`. -/
def lowWord (l : Long) : Word := l.extractLsb' 0 16

/-- `signed_16` (R9). -/
def signed16 (v : Word) : Int := v.toInt

/-- `signed_32` (R9). -/
def signed32 (l : Long) : Int := l.toInt

/-- `unsigned_16` of an integer (R9). -/
def unsigned16 (i : Int) : Word := BitVec.ofInt 16 i

/-- `unsigned_32` of an integer (R9). -/
def unsigned32 (i : Int) : Long := BitVec.ofInt 32 i

/-- The address is odd: bit 0 is 1 (20_memory.md R76). -/
def isOddAddr (a : Word) : Bool := a.getLsbD 0

/-- The word address containing `a`: `a & 0o177776` (20_memory.md R74). -/
def wordAddr (a : Word) : Word := a &&& 0o177776

/-- The address lies in the I/O page, 0o160000 to 0o177777 (20_memory.md R71). -/
def inIoPage (a : Word) : Bool := decide (0o160000 ≤ a.toNat)

end Sys2Proof.Machine
end

