-- ==== Sys2Proof/Machine/State.lean ====
section
/-! DEFINITION. The state of the core (10_state.md), its stop reasons, and reset (70_reset_and_hazards.md R470). -/

namespace Sys2Proof.Machine

open Sys2Proof

/-- One general register: its 16 bits and the mark `written[i]` of 10_state.md R32. -/
structure RegCell where
  value   : Word
  written : Bool
deriving DecidableEq, Repr

/-- The one register file: R0 to R7, R6 the stack pointer, R7 the program counter (10_state.md R30). -/
structure RegFile where
  r0 : RegCell
  r1 : RegCell
  r2 : RegCell
  r3 : RegCell
  r4 : RegCell
  r5 : RegCell
  r6 : RegCell
  r7 : RegCell
deriving DecidableEq, Repr

/-- Memory: (address, byte) pairs, addresses strictly rising and below 2^16, no byte equal to what an unlisted
address reads as (`Memory.wf`). -/
abbrev Memory := List Host.Cell

/-- The kinds of bus fault: only the odd word address; an out-of-range address cannot occur with 16-bit
addresses (20_memory.md R72, R76). -/
inductive BusFaultKind where
  | oddAddress
deriving DecidableEq, Repr

/-- The faults of 60_exceptions.md R430 with codes 1 to 6 (code 7, a read of an unwritten register, is not taken: log 1),
with what each records (48_cpu_driver.md R407). A fault stops the core with all its earlier effects standing (R431), so
the model takes it as a NEXT state whose `execState` is `stopped (fault f)`; no meaning answers `Outcome.fault` (log 6).
Each is the spec's own stop. -/
inductive Fault where
  /-- Raised by the driver for a word no family claims (R408). Safe against a machine that would trap (D7). -/
  | unknownOpcode (ir addr : Word)
  /-- Raised by the driver after an instruction that left the PC at its own address (R409). Safe (D11). -/
  | noProgress (addr : Word)
  /-- Raised by any word access at an odd address (20_memory.md R76). Safe (D6). -/
  | busFault (kind : BusFaultKind) (addr : Word)
  /-- Raised by JMP and JSR with destination mode 0 (40_addressing_modes.md R178). Safe (D22). -/
  | illegalJumpMode (spec : Specifier)
  /-- Raised by DIV with an odd register (44_rss.md R311). Safe (D18). -/
  | undefinedOperation (ir : Word)
  /-- Raised by MARK, MFPI, MTPI, MFPD, MTPD, RESET under UNIMPL_POLICY = Fault (42_no_operand.md R240). Safe (D8). -/
  | unimplemented (stub : Stub)
deriving DecidableEq, Repr

/-- What the model gives no meaning to. Each but `notModelled` and `illegalHostAccess` is a refusal the spec itself
asks for; each is safe: the model stops and proves nothing about what the hardware does there. -/
inductive Refusal where
  /-- Raised by an arm of `exec` whose instruction has no meaning yet; no arm of this model is left so. Safe. -/
  | notModelled (mnemonic : String)
  /-- Raised by `step` when ADDR_BITS is not 16: "A model built from this spec must refuse" it (00_scope.md R7). Safe. -/
  | addressWidth (bits : Nat)
  /-- Raised by `step`, `registerReader` and `registerWriter` for a registration at an odd address or outside the
  I/O page (20_memory.md R73). Safe. -/
  | illegalRegistration
  /-- Raised by a handler call made while the bus lock is held, which only a handler that itself accesses the bus
  could make (20_memory.md R80, D32). Safe. -/
  | busLockHeld
  /-- Raised by `loadWords` for an odd base or a load that runs past 2^16 (70_reset_and_hazards.md R471). Safe. -/
  | illegalLoad
  /-- Raised by the host surface when the host writes, loads or registers after the first instruction while the
  core is not stopped (20_memory.md R93, R73). Safe. -/
  | hostWhileRunning
  /-- Raised by `hostWriteMem` for a word at an odd address, to which the spec gives no effect (log 21). Safe. -/
  | illegalHostAccess
deriving DecidableEq, Repr

/-- Why the core stopped (48_cpu_driver.md R407): HALT, WAIT, or a fault. -/
inductive StopReason where
  | halt
  | wait
  | fault (f : Fault)
deriving DecidableEq, Repr

/-- The execution state `exec` of 10_state.md R51. -/
inductive ExecState where
  | ready
  | stopped (reason : StopReason)
deriving DecidableEq, Repr

/-- The bus-wide lock of 10_state.md R55 and 20_memory.md R80. -/
inductive BusLock where
  | free
  | held
deriving DecidableEq, Repr

/-- `UNIMPL_POLICY` of 00_scope.md R6: what MARK, MFPI, MTPI, MFPD, MTPD and RESET do (42_no_operand.md R240). -/
inductive UnimplPolicy where
  | nop
  | fault
deriving DecidableEq, Repr

/-- The launch parameters of 00_scope.md R6 that are fixed while the core runs. -/
structure Params where
  addrBits        : Nat
  unimplPolicy    : UnimplPolicy
  noProgressCheck : Bool
deriving DecidableEq, Repr

/-- The direction of a handler call. -/
inductive Direction where
  | read
  | write
deriving DecidableEq, Repr

/-- One handler call on the bus: the access address, its width and the value returned or delivered
(20_memory.md R78, R79). -/
structure DevCall where
  dir   : Direction
  addr  : Word
  width : Width
  value : Word
deriving DecidableEq, Repr

/-- The state of the core: 10_state.md R58 in its order, then the launch parameters, then the model's own fields
`started`, `draws` and `devCalls` (logs 12, 9, 8). -/
structure State where
  /-- R0 to R7 with their written marks (R30, R32). -/
  regs      : RegFile
  /-- The processor status word (R40). -/
  psw       : Word
  /-- The byte array (R52). -/
  mem       : Memory
  /-- `DEV_READ`: word addresses with a registered reader (R53, 20_memory.md R73). -/
  devRead   : List Word
  /-- `DEV_WRITE`: word addresses with a registered writer. -/
  devWrite  : List Word
  /-- The bus lock (R55). -/
  busLock   : BusLock
  /-- The Run Flag (R50). -/
  runFlag   : Bool
  /-- The execution state `exec` (R51). -/
  execState : ExecState
  /-- The launch parameters (00_scope.md R6). -/
  params    : Params
  /-- The model's own: an instruction cycle has begun since reset. -/
  started   : Bool
  /-- The model's own: how many free values have been used. -/
  draws     : Nat
  /-- The model's own: the handler calls made, newest first. -/
  devCalls  : List DevCall
deriving DecidableEq, Repr

/-- A register after reset: not written (R32, R470), holding 0 (DESIGN CHOICE, log 1). -/
def RegCell.reset : RegCell := ⟨0, false⟩

/-- The register file after reset (R470 step 1; logs 1, 2). -/
def RegFile.reset : RegFile :=
  ⟨.reset, .reset, .reset, .reset, .reset, .reset, .reset, .reset⟩

/-- The launch parameters of the reset state: the spec's defaults (00_scope.md R6). -/
def Params.default : Params :=
  { addrBits := 16, unimplPolicy := .nop, noProgressCheck := true }

/-- Reset (70_reset_and_hazards.md R470) with given launch parameters, initial memory `MEM0` and registration
table: registers unwritten, PSW 0, bus lock free, Run Flag false, `exec` Ready. It is the first reset: no free value
used, no handler called yet; `resetCore` keeps both over a later one (DESIGN CHOICE, logs 9, 8, 22). -/
def State.launch (p : Params) (mem0 : Memory) (readers writers : List Word) : State :=
  { regs := .reset, psw := 0, mem := mem0, devRead := readers, devWrite := writers, busLock := .free,
    runFlag := false, execState := .ready, params := p, started := false, draws := 0, devCalls := [] }

/-- The machine right after reset: the default parameters, memory with nothing listed, no handler registered
(logs 3, 4). -/
def State.reset : State := State.launch Params.default [] [] []

end Sys2Proof.Machine
end

