-- ==== Sys2Proof/Machine/Ops.lean ====
section
/-! DEFINITION. The shared operations over registers, memory and the bus (00_scope.md R13 to R16, 20_memory.md),
the stops, and the trap entry and return (60_exceptions.md R433, R435). -/

namespace Sys2Proof.Machine

open Sys2Proof

/-! ### Registers -/

/-- The cell of a register. -/
def RegFile.get (f : RegFile) : Reg → RegCell
  | .r0 => f.r0
  | .r1 => f.r1
  | .r2 => f.r2
  | .r3 => f.r3
  | .r4 => f.r4
  | .r5 => f.r5
  | .r6 => f.r6
  | .r7 => f.r7

/-- The file with one cell replaced. -/
def RegFile.set (f : RegFile) (r : Reg) (c : RegCell) : RegFile :=
  match r with
  | .r0 => { f with r0 := c }
  | .r1 => { f with r1 := c }
  | .r2 => { f with r2 := c }
  | .r3 => { f with r3 := c }
  | .r4 => { f with r4 := c }
  | .r5 => { f with r5 := c }
  | .r6 => { f with r6 := c }
  | .r7 => { f with r7 := c }

/-- The value a register holds. -/
def State.reg (s : State) (r : Reg) : Word := (s.regs.get r).value

/-- The mark `written[r]` (10_state.md R32). -/
def State.written (s : State) (r : Reg) : Bool := (s.regs.get r).written

/-- The state after `x[r] <- v`: the value stored, the mark set (10_state.md R31, R32). -/
def State.setReg (s : State) (r : Reg) (v : Word) : State :=
  { s with regs := s.regs.set r ⟨v, true⟩ }

/-! ### The byte array -/

/-- What an address that memory does not list reads as: `MEM0`, chosen 0 (DESIGN CHOICE, log 3). -/
def Memory.unlisted : Byte := 0

/-- The byte at an address. -/
def Memory.get : Memory → Nat → Byte
  | [], _ => Memory.unlisted
  | (k, v) :: rest, a => if k = a then v else Memory.get rest a

/-- One byte written, in the canonical form: writing what an unlisted address reads as removes the entry. -/
def Memory.set : Memory → Nat → Byte → Memory
  | [], a, b => if b = Memory.unlisted then [] else [(a, b)]
  | (k, v) :: rest, a, b =>
    if a < k then (if b = Memory.unlisted then (k, v) :: rest else (a, b) :: (k, v) :: rest)
    else if a = k then (if b = Memory.unlisted then rest else (a, b) :: rest)
    else (k, v) :: Memory.set rest a b

/-- Every listed address is at least `lo` and below 2^16, the addresses rise strictly, and no listed byte is
what an unlisted address reads as. -/
def Memory.wfFrom : Nat → Memory → Bool
  | _, [] => true
  | lo, (k, v) :: rest =>
    decide (lo ≤ k) && decide (k < 65536) && decide (v ≠ Memory.unlisted) && Memory.wfFrom (k + 1) rest

/-- The canonical form of memory. -/
def Memory.wf (m : Memory) : Bool := Memory.wfFrom 0 m

/-- `byte[a]` (20_memory.md R77). -/
def State.byteAt (s : State) (a : Word) : Byte := s.mem.get a.toNat

/-- The state after `byte[a] <- b` (20_memory.md R79). -/
def State.setByte (s : State) (a : Word) (b : Byte) : State :=
  { s with mem := s.mem.set a.toNat b }

/-! ### Raising -/

/-- What ends an instruction before its end: a fault (00_scope.md R16), or a refusal of the model. -/
inductive Abort where
  | fault (f : Fault)
  | refuse (r : Refusal)
deriving DecidableEq, Repr

/-- A piece of an instruction: it reads and writes the state in program order (00_scope.md R18), and may raise,
with every write already made standing (R16). -/
abbrev Exec := EStateM Abort State

/-- `raise f` (00_scope.md R16). -/
def raise {α : Type} (f : Fault) : Exec α := throw (.fault f)

/-- `stop(reason)` (48_cpu_driver.md R400): `exec <- Stopped(reason)`, then the Run Flag cleared (R410). -/
def State.stop (s : State) (r : StopReason) : State :=
  { s with execState := .stopped r, runFlag := false }

/-- The outcome of an instruction: its next state; a raise is `stop(fault)` of the state it left (R400, R431). -/
def finish (m : Exec Unit) (s : State) : Host.Outcome State Fault Refusal :=
  match m s with
  | .ok _ t => .next t
  | .error (.fault f) t => .next (t.stop (.fault f))
  | .error (.refuse r) _ => .refused r

/-- The cause code of a fault (60_exceptions.md R430). -/
def faultCode : Fault → Nat
  | .unknownOpcode _ _ => 1
  | .noProgress _ => 2
  | .busFault _ _ => 3
  | .illegalJumpMode _ => 4
  | .undefinedOperation _ => 5
  | .unimplemented _ => 6

/-! ### Register access -/

/-- `x[r]` (00_scope.md R13). Every register holds a value, written since reset or not (DESIGN CHOICE, log 1). -/
def readReg (r : Reg) : Exec Word := do return (← get).reg r

/-- `x[r] <- v` (00_scope.md R13). -/
def writeReg (r : Reg) (v : Word) : Exec Unit := modify fun s => s.setReg r v

/-! ### The bus -/

/-- `wa ∈ DEV_READ` for the word address of `a` (20_memory.md R74). -/
def State.routedRead (s : State) (a : Word) : Bool := s.devRead.contains (wordAddr a)

/-- `wa ∈ DEV_WRITE` for the word address of `a` (20_memory.md R74). -/
def State.routedWrite (s : State) (a : Word) : Bool := s.devWrite.contains (wordAddr a)

/-- A handler call takes the bus lock; the lock is not reentrant (20_memory.md R80, log 11). -/
def acquireBus : Exec Unit := do
  let s ← get
  if s.busLock = .free then set { s with busLock := .held } else throw (.refuse .busLockHeld)

/-- The lock is "released immediately after" the handler call (20_memory.md R80). -/
def releaseBus : Exec Unit := modify fun s => { s with busLock := .free }

/-- The next free word from the device (20_memory.md R78, log 7). -/
def drawDevice : Exec Word := modifyGet fun s => (Config.deviceRead s.draws, { s with draws := s.draws + 1 })

/-- The next free bit (log 9). -/
def drawFlag : Exec Bool := modifyGet fun s => (Config.freeFlag s.draws, { s with draws := s.draws + 1 })

/-- Record a handler call (log 8). -/
def recordCall (c : DevCall) : Exec Unit := modify fun s => { s with devCalls := c :: s.devCalls }

/-- `DeviceRead(wa, a, n)` (20_memory.md R78): any value, masked to the width, under the bus lock. -/
def deviceRead (w : Width) (a : Word) : Exec Word := do
  acquireBus
  let d ← drawDevice
  recordCall ⟨.read, a, w, truncTo w d⟩
  releaseBus
  return truncTo w d

/-- `DeviceWrite(wa, a, n, v)` (20_memory.md R79): the writer is handed address, width and value; the byte array
is untouched. -/
def deviceWrite (w : Width) (a : Word) (v : Word) : Exec Unit := do
  acquireBus
  recordCall ⟨.write, a, w, truncTo w v⟩
  releaseBus

/-- A word access at an odd address raises before anything is read or written (20_memory.md R76). -/
def checkAligned (w : Width) (a : Word) : Exec Unit :=
  if w = .word ∧ isOddAddr a then raise (.busFault .oddAddress a) else pure ()

/-- The bytes of the array at an address, as a value of the width, little-endian (20_memory.md R75, R77). -/
def State.arrayRead (s : State) (w : Width) (a : Word) : Word :=
  match w with
  | .byte => zext (s.byteAt a)
  | .word => wordOfBytes (s.byteAt a) (s.byteAt (a + 1))

/-- A value written to the array: one byte, or the low byte at `a` and the high byte at `a+1` (20_memory.md R79). -/
def State.arrayWrite (s : State) (w : Width) (a : Word) (v : Word) : State :=
  match w with
  | .byte => s.setByte a (lowByte v)
  | .word => (s.setByte a (lowByte v)).setByte (a + 1) (highByte v)

/-- `MemRead(a, n)` (20_memory.md R77). -/
def memRead (w : Width) (a : Word) : Exec Word := do
  checkAligned w a
  let s ← get
  if s.routedRead a then deviceRead w a else return s.arrayRead w a

/-- `MemWrite(a, n, v)` (20_memory.md R79). -/
def memWrite (w : Width) (a : Word) (v : Word) : Exec Unit := do
  checkAligned w a
  let s ← get
  if s.routedWrite a then deviceWrite w a v else set (s.arrayWrite w a v)

/-! ### Fetch and stack -/

/-- `FetchWord()` (40_addressing_modes.md R160): the word at the PC, then the PC advanced by 2. -/
def fetchWord : Exec Word := do
  let pc ← readReg .r7
  let t ← memRead .word pc
  writeReg .r7 (pc + 2)
  return t

/-- `Push(v)` (00_scope.md R15). -/
def push (v : Word) : Exec Unit := do
  let sp ← readReg .r6
  writeReg .r6 (sp - 2)
  memWrite .word (sp - 2) v

/-- `Pop()` (00_scope.md R15). -/
def pop : Exec Word := do
  let sp ← readReg .r6
  let t ← memRead .word sp
  writeReg .r6 (sp + 2)
  return t

/-! ### The PSW as a whole, traps and their return -/

/-- The whole PSW. -/
def readPsw : Exec Word := do return (← get).psw

/-- All 16 bits of the PSW replaced (10_state.md R42 (c), (d)). -/
def writePsw (v : Word) : Exec Unit := modify fun s => { s with psw := v }

/-- `TrapEntry(v)` (60_exceptions.md R433): push the PSW, push the PC, load the PC from the vector and the PSW
from the word after it. -/
def trapEntry (v : Word) : Exec Unit := do
  push (← readPsw)
  push (← readReg .r7)
  writeReg .r7 (← memRead .word v)
  writePsw (← memRead .word (v + 2))

/-- The return from a trap (60_exceptions.md R435, 42_no_operand.md R232): pop the PC, then the PSW. -/
def trapReturn : Exec Unit := do
  writeReg .r7 (← pop)
  writePsw (← pop)

/-- `Unimplemented(mnemonic)` (42_no_operand.md R240): nothing under `Nop`, a fault under `Fault`. -/
def unimplemented (stub : Stub) : Exec Unit := do
  let s ← get
  match s.params.unimplPolicy with
  | .nop => pure ()
  | .fault => raise (.unimplemented stub)

end Sys2Proof.Machine
end

