-- ==== Sys2Proof/Machine/Flags.lean ====
section
/-! DEFINITION. The condition codes: the PSW's N, Z, V, C, the `SetNZVC` patterns of 00_scope.md R17, and every
flag computation the instruction rules give. -/

namespace Sys2Proof.Machine

open Sys2Proof

/-- `psw.N`, bit 3 (R17, 10_state.md R40). -/
def flagN (p : Word) : Bool := p.getLsbD 3

/-- `psw.Z`, bit 2. -/
def flagZ (p : Word) : Bool := p.getLsbD 2

/-- `psw.V`, bit 1. -/
def flagV (p : Word) : Bool := p.getLsbD 1

/-- `psw.C`, bit 0. -/
def flagC (p : Word) : Bool := p.getLsbD 0

/-- A `SetNZVC` pattern with its `*` computed: each flag written, or left unchanged (`none`) (R17). -/
structure Pattern where
  n : Option Bool
  z : Option Bool
  v : Option Bool
  c : Option Bool
deriving DecidableEq, Repr

/-- The PSW with its bits 3 to 0 as the pattern says and bits 15 to 4 untouched (R17, 10_state.md R42 (a)). -/
def applyPattern (q : Pattern) (p : Word) : Word :=
  (p.extractLsb' 4 12 ++ BitVec.ofBool (q.n.getD (flagN p)) ++ BitVec.ofBool (q.z.getD (flagZ p)) ++
    BitVec.ofBool (q.v.getD (flagV p)) ++ BitVec.ofBool (q.c.getD (flagC p)) : BitVec (12 + 1 + 1 + 1 + 1))

/-- `SetNZVC` on the state. -/
def State.setFlags (s : State) (q : Pattern) : State := { s with psw := applyPattern q s.psw }

/-- `SetNZVC` (R17). -/
def setFlags (q : Pattern) : Exec Unit := modify fun s => s.setFlags q

/-- All four flags written: pattern `****`. -/
def allFlags (n z v c : Bool) : Pattern := ⟨some n, some z, some v, some c⟩

/-- N and Z by the default rule, V and C as given (`none` leaves the flag) (R17). -/
def nzFlags (w : Width) (r : Word) (v c : Option Bool) : Pattern :=
  ⟨some (msbOf w r), some (isZeroAt w r), v, c⟩

/-! ### Single operand (43_single_operand.md): `d` the destination before, `r` the result, `p` the PSW before -/

/-- SWAB: `**00`, N and Z from the new low byte (R262). -/
def swabFlags (r : Word) : Pattern := nzFlags .byte r (some false) (some false)

/-- SXT: `-*0-`, Z set when N is clear (R263). -/
def sxtFlags (p : Word) : Pattern := ⟨none, some (!flagN p), some false, none⟩

/-- CLR: `0100` (R264). -/
def clrFlags : Pattern := allFlags false true false false

/-- COM: `**01` (R265). -/
def comFlags (w : Width) (r : Word) : Pattern := nzFlags w r (some false) (some true)

/-- TST: `**00` (R266). -/
def tstFlags (w : Width) (r : Word) : Pattern := nzFlags w r (some false) (some false)

/-- INC: `***-`, V when d was the greatest positive number (R267). -/
def incFlags (w : Width) (d r : Word) : Pattern := nzFlags w r (some (d == signOf w - 1)) none

/-- DEC: `***-`, V when d was the most negative number (R268). -/
def decFlags (w : Width) (d r : Word) : Pattern := nzFlags w r (some (d == signOf w)) none

/-- NEG: `****`, V when r is the most negative number, C when r is not 0 (R269). -/
def negFlags (w : Width) (r : Word) : Pattern := nzFlags w r (some (r == signOf w)) (some (r != 0))

/-- ADC: `****`, with the C held before (R270). -/
def adcFlags (w : Width) (d r p : Word) : Pattern :=
  nzFlags w r (some (d == signOf w - 1 && flagC p)) (some (d == maskOf w && flagC p))

/-- SBC: `****`, with the C held before; `v` is V in the one case the rule leaves open, d the most negative number
and C clear (R271, D21). -/
def sbcFlags (w : Width) (d r p : Word) (v : Bool) : Pattern :=
  nzFlags w r (some (if d == signOf w && !flagC p then v else d == signOf w && flagC p))
    (some (d == 0 && flagC p))

/-- ROR, ROL, ASR, ASL: `****`, C the bit shifted out, V = N xor C after the shift (43_single_operand.md section 7). -/
def shiftFlags (w : Width) (r : Word) (c : Bool) : Pattern := nzFlags w r (some (msbOf w r ^^ c)) (some c)

/-! ### Double operand (45_ssdd.md): `s` the source, `d` the destination before, `r` the result -/

/-- MOV, BIT, BIC, BIS and XOR: `**0-` (R341, R343 to R345, 44_rss.md R326). -/
def logicFlags (w : Width) (r : Word) : Pattern := nzFlags w r (some false) none

/-- CMP: V when the operands' signs differ and the result's sign is not the source's, C the borrow of s - d (R342). -/
def cmpFlags (w : Width) (s d r : Word) : Pattern :=
  nzFlags w r (some (((s ^^^ d) &&& (s ^^^ r) &&& signOf w) != 0)) (some (decide (s.toNat < d.toNat)))

/-- ADD: V when the operands have one sign and the result the other, C the carry out of bit 15 (R346). -/
def addFlags (s d r : Word) : Pattern :=
  nzFlags .word r (some ((~~~(s ^^^ d) &&& (s ^^^ r) &&& signOf .word) != 0)) (some (decide (2 ^ 16 ≤ s.toNat + d.toNat)))

/-- SUB: V when the operands' signs differ and the result's sign is not the destination's, C the borrow of d - s (R347). -/
def subFlags (s d r : Word) : Pattern :=
  nzFlags .word r (some (((s ^^^ d) &&& (d ^^^ r) &&& signOf .word) != 0)) (some (decide (d.toNat < s.toNat)))

/-! ### Multiply and divide (44_rss.md) -/

/-- MUL: N and Z from the exact product, V = 0, C when it does not fit a signed word (R310). -/
def mulFlags (p : Int) : Pattern :=
  allFlags (decide (p < 0)) (decide (p = 0)) false (decide (p < -2 ^ 15 ∨ 2 ^ 15 ≤ p))

/-- DIV with a stored result: N and Z from the quotient, V = C = 0 (R311). -/
def divFlags (q : Int) : Pattern := allFlags (decide (q < 0)) (decide (q = 0)) false false

/-- DIV with V = 1: N and Z are any value, C marks division by zero (R311, D19). -/
def divOpenFlags (n z byZero : Bool) : Pattern := allFlags n z true byZero

/-! ### Condition-code operators (46_condition_codes.md) -/

/-- Clear: `psw[3:0] & ~m` (R370, R371). -/
def clearCodes (m : BitVec 4) (p : Word) : Word := p.extractLsb' 4 12 ++ (p.extractLsb' 0 4 &&& ~~~m)

/-- Set: `psw[3:0] | m` (R370, R372). -/
def setCodes (m : BitVec 4) (p : Word) : Word := p.extractLsb' 4 12 ++ (p.extractLsb' 0 4 ||| m)

end Sys2Proof.Machine
end

