-- ==== Sys2Proof/Machine/Branch.lean ====
section
/-! DEFINITION. The Branch family (41_branch.md): one shared branch operation, the condition of each branch, and one meaning for
each instruction. The fetch has already advanced the PC to `A + 2`. -/

namespace Sys2Proof.Machine

open Sys2Proof

/-- The branch of R200: when the condition holds, the PC moves by twice the signed offset, modulo 2^16. -/
def branchIf (cond : Word → Bool) (off : BitVec 8) : Exec Unit := do
  if cond (← readPsw) then
    writeReg .r7 ((← readReg .r7) + 2 * sext off)
  else
    pure ()

/-- The condition of BR (R202). -/
def condAlways (_p : Word) : Bool := true

/-- The condition of BNE (R203). -/
def condNe (p : Word) : Bool := !flagZ p

/-- The condition of BEQ (R204). -/
def condEq (p : Word) : Bool := flagZ p

/-- The condition of BGE (R205). -/
def condGe (p : Word) : Bool := !(flagN p ^^ flagV p)

/-- The condition of BLT (R206). -/
def condLt (p : Word) : Bool := flagN p ^^ flagV p

/-- The condition of BGT (R207). -/
def condGt (p : Word) : Bool := !(flagZ p || (flagN p ^^ flagV p))

/-- The condition of BLE (R208). -/
def condLe (p : Word) : Bool := flagZ p || (flagN p ^^ flagV p)

/-- The condition of BPL (R209). -/
def condPlus (p : Word) : Bool := !flagN p

/-- The condition of BMI (R210). -/
def condMinus (p : Word) : Bool := flagN p

/-- The condition of BHI (R211). -/
def condHigher (p : Word) : Bool := !flagC p && !flagZ p

/-- The condition of BLOS (R212). -/
def condLowerSame (p : Word) : Bool := flagC p || flagZ p

/-- The condition of BVC (R213). -/
def condOverflowClear (p : Word) : Bool := !flagV p

/-- The condition of BVS (R214). -/
def condOverflowSet (p : Word) : Bool := flagV p

/-- The condition of BCC (R215). -/
def condCarryClear (p : Word) : Bool := !flagC p

/-- The condition of BCS (R216). -/
def condCarrySet (p : Word) : Bool := flagC p

/-- BR (R202). -/
def execBr (off : BitVec 8) (s : State) : Host.Outcome State Fault Refusal := finish (branchIf condAlways off) s

/-- BNE (R203). -/
def execBne (off : BitVec 8) (s : State) : Host.Outcome State Fault Refusal := finish (branchIf condNe off) s

/-- BEQ (R204). -/
def execBeq (off : BitVec 8) (s : State) : Host.Outcome State Fault Refusal := finish (branchIf condEq off) s

/-- BGE (R205). -/
def execBge (off : BitVec 8) (s : State) : Host.Outcome State Fault Refusal := finish (branchIf condGe off) s

/-- BLT (R206). -/
def execBlt (off : BitVec 8) (s : State) : Host.Outcome State Fault Refusal := finish (branchIf condLt off) s

/-- BGT (R207). -/
def execBgt (off : BitVec 8) (s : State) : Host.Outcome State Fault Refusal := finish (branchIf condGt off) s

/-- BLE (R208). -/
def execBle (off : BitVec 8) (s : State) : Host.Outcome State Fault Refusal := finish (branchIf condLe off) s

/-- BPL (R209). -/
def execBpl (off : BitVec 8) (s : State) : Host.Outcome State Fault Refusal := finish (branchIf condPlus off) s

/-- BMI (R210). -/
def execBmi (off : BitVec 8) (s : State) : Host.Outcome State Fault Refusal := finish (branchIf condMinus off) s

/-- BHI (R211). -/
def execBhi (off : BitVec 8) (s : State) : Host.Outcome State Fault Refusal := finish (branchIf condHigher off) s

/-- BLOS (R212). -/
def execBlos (off : BitVec 8) (s : State) : Host.Outcome State Fault Refusal := finish (branchIf condLowerSame off) s

/-- BVC (R213). -/
def execBvc (off : BitVec 8) (s : State) : Host.Outcome State Fault Refusal := finish (branchIf condOverflowClear off) s

/-- BVS (R214). -/
def execBvs (off : BitVec 8) (s : State) : Host.Outcome State Fault Refusal := finish (branchIf condOverflowSet off) s

/-- BCC (R215). -/
def execBcc (off : BitVec 8) (s : State) : Host.Outcome State Fault Refusal := finish (branchIf condCarryClear off) s

/-- BCS (R216). -/
def execBcs (off : BitVec 8) (s : State) : Host.Outcome State Fault Refusal := finish (branchIf condCarrySet off) s

/-- BHIS (R215, BCC). -/
def execBhis (off : BitVec 8) (s : State) : Host.Outcome State Fault Refusal := finish (branchIf condCarryClear off) s

/-- BLO (R216, BCS). -/
def execBlo (off : BitVec 8) (s : State) : Host.Outcome State Fault Refusal := finish (branchIf condCarrySet off) s

end Sys2Proof.Machine
end

