-- ==== Sys2Proof/Machine/ConditionCode.lean ====
section
/-! DEFINITION. The condition-code operators (46_condition_codes.md), and the named spellings of their masks (30_encoding.md R145). -/

namespace Sys2Proof.Machine

open Sys2Proof

/-- Clear the flags the mask selects (R370, R371); PSW bits 15-4 are not touched. -/
def clearMask (m : BitVec 4) : Exec Unit := do writePsw (clearCodes m (← readPsw))

/-- Set the flags the mask selects (R370, R372). -/
def setMask (m : BitVec 4) : Exec Unit := do writePsw (setCodes m (← readPsw))

/-- Cx (R371). -/
def execCx (mask : BitVec 4) (s : State) : Host.Outcome State Fault Refusal := finish (clearMask mask) s

/-- Sx (R372). -/
def execSx (mask : BitVec 4) (s : State) : Host.Outcome State Fault Refusal := finish (setMask mask) s

/-- CLC: Cx with mask 0001 (R371, R145). -/
def execClc (s : State) : Host.Outcome State Fault Refusal := finish (clearMask 0b0001) s

/-- CLV: Cx with mask 0010 (R371, R145). -/
def execClv (s : State) : Host.Outcome State Fault Refusal := finish (clearMask 0b0010) s

/-- CLZ: Cx with mask 0100 (R371, R145). -/
def execClz (s : State) : Host.Outcome State Fault Refusal := finish (clearMask 0b0100) s

/-- CLN: Cx with mask 1000 (R371, R145). -/
def execCln (s : State) : Host.Outcome State Fault Refusal := finish (clearMask 0b1000) s

/-- CCC: Cx with mask 1111 (R371, R145). -/
def execCcc (s : State) : Host.Outcome State Fault Refusal := finish (clearMask 0b1111) s

/-- SEC: Sx with mask 0001 (R372, R145). -/
def execSec (s : State) : Host.Outcome State Fault Refusal := finish (setMask 0b0001) s

/-- SEV: Sx with mask 0010 (R372, R145). -/
def execSev (s : State) : Host.Outcome State Fault Refusal := finish (setMask 0b0010) s

/-- SEZ: Sx with mask 0100 (R372, R145). -/
def execSez (s : State) : Host.Outcome State Fault Refusal := finish (setMask 0b0100) s

/-- SEN: Sx with mask 1000 (R372, R145). -/
def execSen (s : State) : Host.Outcome State Fault Refusal := finish (setMask 0b1000) s

/-- SCC: Sx with mask 1111 (R372, R145). -/
def execScc (s : State) : Host.Outcome State Fault Refusal := finish (setMask 0b1111) s

end Sys2Proof.Machine
end

