-- ==== Sys2Proof/Machine/Operands.lean ====
section
/-! DEFINITION. The addressing-mode resolver and operand access (40_addressing_modes.md R161 to R178), and
register pairs (44_rss.md preamble). -/

namespace Sys2Proof.Machine

open Sys2Proof

/-- `Step(r, w)`: 1 for a byte and a register up to R5, else 2 (R162). -/
def stepOf : Reg → Width → Word
  | .r6, _ => 2
  | .r7, _ => 2
  | _, .byte => 1
  | _, .word => 2

/-- `ResolveEA(spec, w)` (R161), with the mode's side effects in program order. Mode 0 has no address: `resolve`
and `resolveJump` take it before they come here, and for it nothing is done and the answer is 0. -/
def resolveEA (o : Specifier) (w : Width) : Exec Word :=
  match o.mode with
  | .register => return 0
  | .deferred => readReg o.reg
  | .autoInc => do
    let ea ← readReg o.reg
    writeReg o.reg (ea + stepOf o.reg w)
    return ea
  | .autoIncDeferred => do
    let p ← readReg o.reg
    writeReg o.reg (p + 2)
    memRead .word p
  | .autoDec => do
    let x ← readReg o.reg
    writeReg o.reg (x - stepOf o.reg w)
    return x - stepOf o.reg w
  | .autoDecDeferred => do
    let x ← readReg o.reg
    writeReg o.reg (x - 2)
    memRead .word (x - 2)
  | .index => do
    let d ← fetchWord
    let base ← readReg o.reg
    return base + d
  | .indexDeferred => do
    let d ← fetchWord
    let base ← readReg o.reg
    memRead .word (base + d)

/-- An operand: a register, or memory at an address (R167). -/
inductive Operand where
  | reg (r : Reg)
  | mem (ea : Word)
deriving DecidableEq, Repr

/-- `Resolve(spec, w)` (R167). -/
def resolve (o : Specifier) (w : Width) : Exec Operand :=
  match o.mode with
  | .register => return .reg o.reg
  | _ => do return .mem (← resolveEA o w)

/-- `ReadOp(op, w)` (R170). -/
def readOp (op : Operand) (w : Width) : Exec Word :=
  match op with
  | .reg r => do return truncTo w (← readReg r)
  | .mem ea => memRead w ea

/-- The register's old high byte with a new low byte (R173). -/
def keepHigh (old v : Word) : Word := highByte old ++ lowByte v

/-- `WriteOp(op, w, v)` (R171 to R173): a byte write to a register keeps its high byte, which it reads. -/
def writeOp (op : Operand) (w : Width) (v : Word) : Exec Unit :=
  match op, w with
  | .reg r, .word => writeReg r v
  | .reg r, .byte => do writeReg r (keepHigh (← readReg r) v)
  | .mem ea, w => memWrite w ea v

/-- MOVB's destination write: a register takes the sign-extended byte, its old value not read (R174); memory
takes one byte (R172). -/
def writeOpSext (op : Operand) (v : Word) : Exec Unit :=
  match op with
  | .reg r => writeReg r (sext (lowByte v))
  | .mem ea => memWrite .byte ea v

/-- `ResolveJumpTarget(spec)` (R178): mode 0 is illegal; the target is the address itself. -/
def resolveJump (o : Specifier) : Exec Word :=
  if o.mode = .register then raise (.illegalJumpMode o) else resolveEA o .word

/-- The odd register of the pair: `R|1` (44_rss.md preamble). -/
def oddOf : Reg → Reg
  | .r0 | .r1 => .r1
  | .r2 | .r3 => .r3
  | .r4 | .r5 => .r5
  | .r6 | .r7 => .r7

/-- The shift count of a source value: its low 6 bits as a signed 6-bit number (30_encoding.md R118). -/
def shiftCount (v : Word) : Int := (v.extractLsb' 0 6).toInt

end Sys2Proof.Machine
end

