-- ==== Sys2Proof/Machine/DoubleOperand.lean ====
section
/-! DEFINITION. The SSDD family (45_ssdd.md): the order of R340, and one meaning for each instruction. -/

namespace Sys2Proof.Machine

open Sys2Proof

/-- An SSDD instruction that writes what it computes from source and destination (R340, 40_addressing_modes.md R176):
source resolved and read, then the destination resolved and read, computed, written, then the flags. -/
def combine (w : Width) (src dst : Specifier) (f : Word → Word → Word) (flags : Word → Word → Word → Pattern) :
    Exec Unit := do
  let sop ← resolve src w
  let s ← readOp sop w
  let dop ← resolve dst w
  let d ← readOp dop w
  writeOp dop w (f s d)
  setFlags (flags s d (f s d))

/-- An SSDD instruction that only sets flags: CMP, BIT (R340). -/
def compareOnly (w : Width) (src dst : Specifier) (flags : Word → Word → Pattern) : Exec Unit := do
  let sop ← resolve src w
  let s ← readOp sop w
  let dop ← resolve dst w
  let d ← readOp dop w
  setFlags (flags s d)

/-- MOV and MOVB: the destination is written without being read, by `write` (R340, R341). -/
def moveTo (w : Width) (src dst : Specifier) (write : Operand → Word → Exec Unit) : Exec Unit := do
  let sop ← resolve src w
  let s ← readOp sop w
  let dop ← resolve dst w
  write dop s
  setFlags (logicFlags w s)

/-- CMP: `(s - d) & M` (R342). -/
def cmpResult (w : Width) (s d : Word) : Word := truncTo w (s - d)

/-- BIC: `~s & d & M` (R344). -/
def bicResult (w : Width) (s d : Word) : Word := truncTo w (~~~s &&& d)

/-- BIS: `(s | d) & M` (R345). -/
def bisResult (w : Width) (s d : Word) : Word := truncTo w (s ||| d)

/-- MOV (R341). -/
def execMov (src dst : Specifier) (s : State) : Host.Outcome State Fault Refusal :=
  finish (moveTo .word src dst (fun op v => writeOp op .word v)) s

/-- CMP (R342). -/
def execCmp (src dst : Specifier) (s : State) : Host.Outcome State Fault Refusal :=
  finish (compareOnly .word src dst (fun a d => cmpFlags .word a d (cmpResult .word a d))) s

/-- BIT (R343). -/
def execBit (src dst : Specifier) (s : State) : Host.Outcome State Fault Refusal :=
  finish (compareOnly .word src dst (fun a d => logicFlags .word (a &&& d))) s

/-- BIC (R344). -/
def execBic (src dst : Specifier) (s : State) : Host.Outcome State Fault Refusal :=
  finish (combine .word src dst (bicResult .word) (fun _ _ r => logicFlags .word r)) s

/-- BIS (R345). -/
def execBis (src dst : Specifier) (s : State) : Host.Outcome State Fault Refusal :=
  finish (combine .word src dst (bisResult .word) (fun _ _ r => logicFlags .word r)) s

/-- ADD (R346). -/
def execAdd (src dst : Specifier) (s : State) : Host.Outcome State Fault Refusal :=
  finish (combine .word src dst (fun a d => a + d) addFlags) s

/-- MOVB (R341, 40_addressing_modes.md R174). -/
def execMovb (src dst : Specifier) (s : State) : Host.Outcome State Fault Refusal :=
  finish (moveTo .byte src dst writeOpSext) s

/-- CMPB (R342). -/
def execCmpb (src dst : Specifier) (s : State) : Host.Outcome State Fault Refusal :=
  finish (compareOnly .byte src dst (fun a d => cmpFlags .byte a d (cmpResult .byte a d))) s

/-- BITB (R343). -/
def execBitb (src dst : Specifier) (s : State) : Host.Outcome State Fault Refusal :=
  finish (compareOnly .byte src dst (fun a d => logicFlags .byte (a &&& d))) s

/-- BICB (R344). -/
def execBicb (src dst : Specifier) (s : State) : Host.Outcome State Fault Refusal :=
  finish (combine .byte src dst (bicResult .byte) (fun _ _ r => logicFlags .byte r)) s

/-- BISB (R345). -/
def execBisb (src dst : Specifier) (s : State) : Host.Outcome State Fault Refusal :=
  finish (combine .byte src dst (bisResult .byte) (fun _ _ r => logicFlags .byte r)) s

/-- SUB (R347). -/
def execSub (src dst : Specifier) (s : State) : Host.Outcome State Fault Refusal :=
  finish (combine .word src dst (fun a d => d - a) subFlags) s

end Sys2Proof.Machine
end

