-- ==== Sys2Proof/Machine/Linkage.lean ====
section
/-! DEFINITION. The Other family (47_other.md): JSR, RTS, MARK. -/

namespace Sys2Proof.Machine

open Sys2Proof

/-- JSR (R380): the target resolved first, the link register pushed, then loaded with the PC, then the jump. -/
def jumpSubroutine (r : Reg) (dst : Specifier) : Exec Unit := do
  let t ← resolveJump dst
  push (← readReg r)
  writeReg r (← readReg .r7)
  writeReg .r7 t

/-- RTS (R381): the PC from the link register, the link register from the stack. -/
def returnSubroutine (r : Reg) : Exec Unit := do
  writeReg .r7 (← readReg r)
  writeReg r (← pop)

/-- JSR (R380). -/
def execJsr (r : Reg) (dst : Specifier) (s : State) : Host.Outcome State Fault Refusal := finish (jumpSubroutine r dst) s

/-- RTS (R381). -/
def execRts (r : Reg) (s : State) : Host.Outcome State Fault Refusal := finish (returnSubroutine r) s

/-- MARK (R384): a stub; NN is not used. -/
def execMark (_nn : BitVec 6) (s : State) : Host.Outcome State Fault Refusal := finish (unimplemented .mark) s

end Sys2Proof.Machine
end

