-- ==== Sys2Proof/Machine/NoOperand.lean ====
section
/-! DEFINITION. The No-Operand family (42_no_operand.md). The fetch has already advanced the PC to `A + 2`. -/

namespace Sys2Proof.Machine

open Sys2Proof

/-- HALT and WAIT: `exec <- Stopped(reason)`, the Run Flag cleared (48_cpu_driver.md R407, R410). -/
def stopCore (r : StopReason) : Exec Unit := modify fun s => s.stop r

/-- The vector of BPT (R233). -/
def bptVector : Word := 0o014

/-- The vector of IOT (R234). -/
def iotVector : Word := 0o020

/-- HALT (R230). -/
def execHalt (s : State) : Host.Outcome State Fault Refusal := finish (stopCore .halt) s

/-- WAIT (R231). -/
def execWait (s : State) : Host.Outcome State Fault Refusal := finish (stopCore .wait) s

/-- RTI (R232). -/
def execRti (s : State) : Host.Outcome State Fault Refusal := finish trapReturn s

/-- BPT (R233). -/
def execBpt (s : State) : Host.Outcome State Fault Refusal := finish (trapEntry bptVector) s

/-- IOT (R234). -/
def execIot (s : State) : Host.Outcome State Fault Refusal := finish (trapEntry iotVector) s

/-- RESET (R235). -/
def execReset (s : State) : Host.Outcome State Fault Refusal := finish (unimplemented .reset) s

/-- RTT (R237: as RTI). -/
def execRtt (s : State) : Host.Outcome State Fault Refusal := finish trapReturn s

/-- NOP (R243: nothing changes but the PC, which the fetch advanced). -/
def execNop (s : State) : Host.Outcome State Fault Refusal := finish (pure ()) s

end Sys2Proof.Machine
end

