-- ==== Sys2Proof/Machine/RegisterOperand.lean ====
section
/-! DEFINITION. The RSS family (44_rss.md): MUL, DIV, ASH, ASHC, XOR, SOB. -/

namespace Sys2Proof.Machine

open Sys2Proof

/-- The source operand of MUL, DIV, ASH and ASHC: resolved and read as a word before the register (R310 to R314, D15). -/
def readSource (o : Specifier) : Exec Word := do
  let op ← resolve o .word
  readOp op .word

/-- A 32-bit result stored in a pair, high word first; an odd register takes the low word only (R310, R314). -/
def writePair (r : Reg) (l : Long) : Exec Unit := do
  if r.isOdd then
    writeReg r (lowWord l)
  else
    writeReg r (highWord l)
    writeReg (oddOf r) (lowWord l)

/-- The state of a shift in progress: the pattern, C and V (R312). -/
structure ShiftState (b : Nat) where
  r : BitVec b
  c : Bool
  v : Bool
deriving DecidableEq, Repr

/-- One step of a left shift: C takes the sign bit, V is set if the sign changes (R312). -/
def shiftLeftOne {b : Nat} (x : ShiftState b) : ShiftState b :=
  ⟨x.r <<< 1, x.r.msb, x.v || ((x.r <<< 1).msb != x.r.msb)⟩

/-- One step of a right shift: C takes bit 0, the sign bit is copied in (R312). -/
def shiftRightOne {b : Nat} (x : ShiftState b) : ShiftState b :=
  ⟨x.r.sshiftRight 1, x.r.getLsbD 0, x.v⟩

/-- `f` repeated `n` times. -/
def repeatShift {b : Nat} (f : ShiftState b → ShiftState b) : Nat → ShiftState b → ShiftState b
  | 0, x => x
  | n + 1, x => repeatShift f n (f x)

/-- `ShiftN(d, cnt, b)` (R312): left for a positive count, right for a negative one; count 0 leaves C = V = 0. -/
def shiftN {b : Nat} (d : BitVec b) (cnt : Int) : ShiftState b :=
  if 0 < cnt then repeatShift shiftLeftOne cnt.toNat ⟨d, false, false⟩
  else repeatShift shiftRightOne (-cnt).toNat ⟨d, false, false⟩

/-- MUL (R310). -/
def multiply (r : Reg) (src : Specifier) : Exec Unit := do
  let b ← readSource src
  let a ← readReg r
  let p := signed16 a * signed16 b
  writePair r (unsigned32 p)
  setFlags (mulFlags p)

/-- DIV's result stored: the quotient in R, the remainder in R|1 (R311). -/
def storeQuotient (r : Reg) (q rem : Int) : Exec Unit := do
  writeReg r (unsigned16 q)
  writeReg (oddOf r) (unsigned16 rem)
  setFlags (divFlags q)

/-- DIV with V = 1: the registers unchanged, N and Z free values (R311, D19, log 9). -/
def divideOverflow (byZero : Bool) : Exec Unit := do
  let n ← drawFlag
  let z ← drawFlag
  setFlags (divOpenFlags n z byZero)

/-- DIV (R311): `ir` is the instruction word, recorded when R is odd. The quotient is truncated toward zero and
the remainder has the dividend's sign. For the quotient -32768 a free value chooses between the two outcomes (D20). -/
def divide (ir : Word) (r : Reg) (src : Specifier) : Exec Unit := do
  if r.isOdd then
    raise (.undefinedOperation ir)
  else
    let s ← readSource src
    let hi ← readReg r
    let lo ← readReg (oddOf r)
    let n := signed32 (longOf hi lo)
    if s = 0 then
      divideOverflow true
    else
      let q := n.tdiv (signed16 s)
      let rem := n - q * signed16 s
      if q < -32768 ∨ 32767 < q then
        divideOverflow false
      else if q = -32768 then
        if ← drawFlag then storeQuotient r q rem else divideOverflow false
      else
        storeQuotient r q rem

/-- ASH (R313). -/
def shiftArith (r : Reg) (src : Specifier) : Exec Unit := do
  let v ← readSource src
  let d ← readReg r
  let x := shiftN d (shiftCount v)
  writeReg r x.r
  setFlags (allFlags x.r.msb (x.r == 0) x.v x.c)

/-- ASHC (R314): an even register gives the pair, an odd one the register twice (D29). -/
def shiftArithCombined (r : Reg) (src : Specifier) : Exec Unit := do
  let v ← readSource src
  let hi ← readReg r
  let lo ← readReg (if r.isOdd then r else oddOf r)
  let x := shiftN (longOf hi lo) (shiftCount v)
  writePair r x.r
  setFlags (allFlags x.r.msb (x.r == 0) x.v x.c)

/-- XOR (R326): the register first, then the destination. -/
def exclusiveOr (r : Reg) (dst : Specifier) : Exec Unit := do
  let s ← readReg r
  let op ← resolve dst .word
  let d ← readOp op .word
  writeOp op .word (s ^^^ d)
  setFlags (logicFlags .word (s ^^^ d))

/-- SOB (R327): subtract one, and branch backward by twice the unsigned offset while not zero. -/
def subtractOneBranch (r : Reg) (nn : BitVec 6) : Exec Unit := do
  writeReg r ((← readReg r) - 1)
  if (← readReg r) = 0 then
    pure ()
  else
    writeReg .r7 ((← readReg .r7) - 2 * nn.setWidth 16)

/-- MUL (R310). -/
def execMul (r : Reg) (src : Specifier) (s : State) : Host.Outcome State Fault Refusal :=
  finish (multiply r src) s

/-- DIV (R311). -/
def execDiv (r : Reg) (src : Specifier) (s : State) : Host.Outcome State Fault Refusal :=
  finish (divide (encodeWord (.div r src)) r src) s

/-- ASH (R313). -/
def execAsh (r : Reg) (src : Specifier) (s : State) : Host.Outcome State Fault Refusal :=
  finish (shiftArith r src) s

/-- ASHC (R314). -/
def execAshc (r : Reg) (src : Specifier) (s : State) : Host.Outcome State Fault Refusal :=
  finish (shiftArithCombined r src) s

/-- XOR (R326). -/
def execXor (r : Reg) (dst : Specifier) (s : State) : Host.Outcome State Fault Refusal :=
  finish (exclusiveOr r dst) s

/-- SOB (R327). -/
def execSob (r : Reg) (nn : BitVec 6) (s : State) : Host.Outcome State Fault Refusal :=
  finish (subtractOneBranch r nn) s

end Sys2Proof.Machine
end

