-- ==== Sys2Proof/Machine/SingleOperand.lean ====
section
/-! DEFINITION. The Single-Operand family (43_single_operand.md): the three access patterns of R260, the result of each instruction,
and one meaning for each. -/

namespace Sys2Proof.Machine

open Sys2Proof

/-- Read-modify-write (R260): resolve once, read, compute from the value and the PSW, write, then set the flags. -/
def readModifyWrite (w : Width) (o : Specifier) (f : Word → Word → Word) (flags : Word → Word → Word → Pattern) :
    Exec Unit := do
  let op ← resolve o w
  let d ← readOp op w
  let p ← readPsw
  writeOp op w (f d p)
  setFlags (flags d (f d p) p)

/-- Write-only (R260): CLR, SXT; the destination is not read (40_addressing_modes.md R175). -/
def writeOnly (w : Width) (o : Specifier) (f : Word → Word) (flags : Word → Pattern) : Exec Unit := do
  let op ← resolve o w
  let p ← readPsw
  writeOp op w (f p)
  setFlags (flags p)

/-- Read-only (R260): TST. -/
def readOnly (w : Width) (o : Specifier) (flags : Word → Pattern) : Exec Unit := do
  let op ← resolve o w
  let d ← readOp op w
  setFlags (flags d)

/-- The C flag as a number. -/
def carryIn (p : Word) : Word := if flagC p then 1 else 0

/-- SWAB: `d[7:0] ++ d[15:8]` (R262). -/
def swabResult (d : Word) : Word := lowByte d ++ highByte d

/-- SXT: all ones if N, else 0 (R263). -/
def sxtResult (p : Word) : Word := if flagN p then 0o177777 else 0

/-- COM: `~d & M` (R265). -/
def comResult (w : Width) (d : Word) : Word := truncTo w (~~~d)

/-- INC: `(d + 1) & M` (R267). -/
def incResult (w : Width) (d : Word) : Word := truncTo w (d + 1)

/-- DEC: `(d - 1) & M` (R268). -/
def decResult (w : Width) (d : Word) : Word := truncTo w (d - 1)

/-- NEG: `(-d) & M` (R269). -/
def negResult (w : Width) (d : Word) : Word := truncTo w (-d)

/-- ADC: `(d + C) & M` (R270). -/
def adcResult (w : Width) (d p : Word) : Word := truncTo w (d + carryIn p)

/-- SBC: `(d - C) & M` (R271). -/
def sbcResult (w : Width) (d p : Word) : Word := truncTo w (d - carryIn p)

/-- ROR: `(C << (b-1)) | (d >> 1)` (R272). -/
def rorResult (w : Width) (d p : Word) : Word := (carryIn p <<< (bitsOf w - 1)) ||| (d >>> 1)

/-- ROL: `((d << 1) & M) | C` (R273). -/
def rolResult (w : Width) (d p : Word) : Word := truncTo w (d <<< 1) ||| carryIn p

/-- ASR: `(d >> 1) | (d & S)` (R274). -/
def asrResult (w : Width) (d : Word) : Word := (d >>> 1) ||| (d &&& signOf w)

/-- ASL: `(d << 1) & M` (R275). -/
def aslResult (w : Width) (d : Word) : Word := truncTo w (d <<< 1)

/-- JMP (R261): `pc <- ResolveJumpTarget(ir[5:0])`. -/
def execJmp (dst : Specifier) (s : State) : Host.Outcome State Fault Refusal :=
  finish (do writeReg .r7 (← resolveJump dst)) s

/-- SWAB (R262). -/
def execSwab (dst : Specifier) (s : State) : Host.Outcome State Fault Refusal :=
  finish (readModifyWrite .word dst (fun d _ => swabResult d) (fun _ r _ => swabFlags r)) s

/-- SXT (R263). -/
def execSxt (dst : Specifier) (s : State) : Host.Outcome State Fault Refusal :=
  finish (writeOnly .word dst sxtResult sxtFlags) s

/-- SBC and SBCB (R271): V is a free value when d is the most negative number and C is clear (D21, log 9). -/
def subtractCarry (w : Width) (o : Specifier) : Exec Unit := do
  let op ← resolve o w
  let d ← readOp op w
  let p ← readPsw
  writeOp op w (sbcResult w d p)
  if d == signOf w && !flagC p then
    setFlags (sbcFlags w d (sbcResult w d p) p (← drawFlag))
  else
    setFlags (sbcFlags w d (sbcResult w d p) p false)

/-- CLR (R264). -/
def execClr (dst : Specifier) (s : State) : Host.Outcome State Fault Refusal :=
  finish (writeOnly .word dst (fun _ => 0) (fun _ => clrFlags)) s

/-- CLRB (R264). -/
def execClrb (dst : Specifier) (s : State) : Host.Outcome State Fault Refusal :=
  finish (writeOnly .byte dst (fun _ => 0) (fun _ => clrFlags)) s

/-- COM (R265). -/
def execCom (dst : Specifier) (s : State) : Host.Outcome State Fault Refusal :=
  finish (readModifyWrite .word dst (fun d _ => comResult .word d) (fun _ r _ => comFlags .word r)) s

/-- COMB (R265). -/
def execComb (dst : Specifier) (s : State) : Host.Outcome State Fault Refusal :=
  finish (readModifyWrite .byte dst (fun d _ => comResult .byte d) (fun _ r _ => comFlags .byte r)) s

/-- INC (R267). -/
def execInc (dst : Specifier) (s : State) : Host.Outcome State Fault Refusal :=
  finish (readModifyWrite .word dst (fun d _ => incResult .word d) (fun d r _ => incFlags .word d r)) s

/-- INCB (R267). -/
def execIncb (dst : Specifier) (s : State) : Host.Outcome State Fault Refusal :=
  finish (readModifyWrite .byte dst (fun d _ => incResult .byte d) (fun d r _ => incFlags .byte d r)) s

/-- DEC (R268). -/
def execDec (dst : Specifier) (s : State) : Host.Outcome State Fault Refusal :=
  finish (readModifyWrite .word dst (fun d _ => decResult .word d) (fun d r _ => decFlags .word d r)) s

/-- DECB (R268). -/
def execDecb (dst : Specifier) (s : State) : Host.Outcome State Fault Refusal :=
  finish (readModifyWrite .byte dst (fun d _ => decResult .byte d) (fun d r _ => decFlags .byte d r)) s

/-- NEG (R269). -/
def execNeg (dst : Specifier) (s : State) : Host.Outcome State Fault Refusal :=
  finish (readModifyWrite .word dst (fun d _ => negResult .word d) (fun _ r _ => negFlags .word r)) s

/-- NEGB (R269). -/
def execNegb (dst : Specifier) (s : State) : Host.Outcome State Fault Refusal :=
  finish (readModifyWrite .byte dst (fun d _ => negResult .byte d) (fun _ r _ => negFlags .byte r)) s

/-- ADC (R270). -/
def execAdc (dst : Specifier) (s : State) : Host.Outcome State Fault Refusal :=
  finish (readModifyWrite .word dst (adcResult .word) (adcFlags .word)) s

/-- ADCB (R270). -/
def execAdcb (dst : Specifier) (s : State) : Host.Outcome State Fault Refusal :=
  finish (readModifyWrite .byte dst (adcResult .byte) (adcFlags .byte)) s

/-- SBC (R271). -/
def execSbc (dst : Specifier) (s : State) : Host.Outcome State Fault Refusal :=
  finish (subtractCarry .word dst) s

/-- SBCB (R271). -/
def execSbcb (dst : Specifier) (s : State) : Host.Outcome State Fault Refusal :=
  finish (subtractCarry .byte dst) s

/-- TST (R266). -/
def execTst (dst : Specifier) (s : State) : Host.Outcome State Fault Refusal :=
  finish (readOnly .word dst (tstFlags .word)) s

/-- TSTB (R266). -/
def execTstb (dst : Specifier) (s : State) : Host.Outcome State Fault Refusal :=
  finish (readOnly .byte dst (tstFlags .byte)) s

/-- ROR (R272). -/
def execRor (dst : Specifier) (s : State) : Host.Outcome State Fault Refusal :=
  finish (readModifyWrite .word dst (rorResult .word) (fun d r _ => shiftFlags .word r (d.getLsbD 0))) s

/-- RORB (R272). -/
def execRorb (dst : Specifier) (s : State) : Host.Outcome State Fault Refusal :=
  finish (readModifyWrite .byte dst (rorResult .byte) (fun d r _ => shiftFlags .byte r (d.getLsbD 0))) s

/-- ROL (R273). -/
def execRol (dst : Specifier) (s : State) : Host.Outcome State Fault Refusal :=
  finish (readModifyWrite .word dst (rolResult .word) (fun d r _ => shiftFlags .word r (msbOf .word d))) s

/-- ROLB (R273). -/
def execRolb (dst : Specifier) (s : State) : Host.Outcome State Fault Refusal :=
  finish (readModifyWrite .byte dst (rolResult .byte) (fun d r _ => shiftFlags .byte r (msbOf .byte d))) s

/-- ASR (R274). -/
def execAsr (dst : Specifier) (s : State) : Host.Outcome State Fault Refusal :=
  finish (readModifyWrite .word dst (fun d _ => asrResult .word d) (fun d r _ => shiftFlags .word r (d.getLsbD 0))) s

/-- ASRB (R274). -/
def execAsrb (dst : Specifier) (s : State) : Host.Outcome State Fault Refusal :=
  finish (readModifyWrite .byte dst (fun d _ => asrResult .byte d) (fun d r _ => shiftFlags .byte r (d.getLsbD 0))) s

/-- ASL (R275). -/
def execAsl (dst : Specifier) (s : State) : Host.Outcome State Fault Refusal :=
  finish (readModifyWrite .word dst (fun d _ => aslResult .word d) (fun d r _ => shiftFlags .word r (msbOf .word d))) s

/-- ASLB (R275). -/
def execAslb (dst : Specifier) (s : State) : Host.Outcome State Fault Refusal :=
  finish (readModifyWrite .byte dst (fun d _ => aslResult .byte d) (fun d r _ => shiftFlags .byte r (msbOf .byte d))) s

/-- MFPI (R291, R290): the operand is not resolved. -/
def execMfpi (_src : Specifier) (s : State) : Host.Outcome State Fault Refusal :=
  finish (unimplemented .mfpi) s

/-- MTPI (R292, R290): the operand is not resolved. -/
def execMtpi (_dst : Specifier) (s : State) : Host.Outcome State Fault Refusal :=
  finish (unimplemented .mtpi) s

/-- MFPD (R293, R290): the operand is not resolved. -/
def execMfpd (_src : Specifier) (s : State) : Host.Outcome State Fault Refusal :=
  finish (unimplemented .mfpd) s

/-- MTPD (R294, R290): the operand is not resolved. -/
def execMtpd (_dst : Specifier) (s : State) : Host.Outcome State Fault Refusal :=
  finish (unimplemented .mtpd) s

end Sys2Proof.Machine
end

