-- ==== Sys2Proof/Machine/Dispatch.lean ====
section
/-! DEFINITION. The dispatch: one arm for each constructor of `Instr`, each one call of its meaning. The families'
precedence is the decoder's (48_cpu_driver.md R402); here the instruction is already decoded. -/

namespace Sys2Proof.Machine

open Sys2Proof

def exec (i : Instr) (s : State) : Host.Outcome State Fault Refusal :=
  match i with
  | .br off => Sys2Proof.Machine.execBr off s
  | .bne off => Sys2Proof.Machine.execBne off s
  | .beq off => Sys2Proof.Machine.execBeq off s
  | .bge off => Sys2Proof.Machine.execBge off s
  | .blt off => Sys2Proof.Machine.execBlt off s
  | .bgt off => Sys2Proof.Machine.execBgt off s
  | .ble off => Sys2Proof.Machine.execBle off s
  | .bpl off => Sys2Proof.Machine.execBpl off s
  | .bmi off => Sys2Proof.Machine.execBmi off s
  | .bhi off => Sys2Proof.Machine.execBhi off s
  | .blos off => Sys2Proof.Machine.execBlos off s
  | .bvc off => Sys2Proof.Machine.execBvc off s
  | .bvs off => Sys2Proof.Machine.execBvs off s
  | .bcc off => Sys2Proof.Machine.execBcc off s
  | .bcs off => Sys2Proof.Machine.execBcs off s
  | .bhis off => Sys2Proof.Machine.execBhis off s
  | .blo off => Sys2Proof.Machine.execBlo off s
  | .cx mask => Sys2Proof.Machine.execCx mask s
  | .sx mask => Sys2Proof.Machine.execSx mask s
  | .clc => Sys2Proof.Machine.execClc s
  | .clv => Sys2Proof.Machine.execClv s
  | .clz => Sys2Proof.Machine.execClz s
  | .cln => Sys2Proof.Machine.execCln s
  | .ccc => Sys2Proof.Machine.execCcc s
  | .sec => Sys2Proof.Machine.execSec s
  | .sev => Sys2Proof.Machine.execSev s
  | .sez => Sys2Proof.Machine.execSez s
  | .sen => Sys2Proof.Machine.execSen s
  | .scc => Sys2Proof.Machine.execScc s
  | .halt => Sys2Proof.Machine.execHalt s
  | .wait => Sys2Proof.Machine.execWait s
  | .rti => Sys2Proof.Machine.execRti s
  | .bpt => Sys2Proof.Machine.execBpt s
  | .iot => Sys2Proof.Machine.execIot s
  | .reset => Sys2Proof.Machine.execReset s
  | .rtt => Sys2Proof.Machine.execRtt s
  | .nop => Sys2Proof.Machine.execNop s
  | .jmp dst => Sys2Proof.Machine.execJmp dst s
  | .swab dst => Sys2Proof.Machine.execSwab dst s
  | .clr dst => Sys2Proof.Machine.execClr dst s
  | .com dst => Sys2Proof.Machine.execCom dst s
  | .inc dst => Sys2Proof.Machine.execInc dst s
  | .dec dst => Sys2Proof.Machine.execDec dst s
  | .neg dst => Sys2Proof.Machine.execNeg dst s
  | .adc dst => Sys2Proof.Machine.execAdc dst s
  | .sbc dst => Sys2Proof.Machine.execSbc dst s
  | .tst dst => Sys2Proof.Machine.execTst dst s
  | .ror dst => Sys2Proof.Machine.execRor dst s
  | .rol dst => Sys2Proof.Machine.execRol dst s
  | .asr dst => Sys2Proof.Machine.execAsr dst s
  | .asl dst => Sys2Proof.Machine.execAsl dst s
  | .mfpi src => Sys2Proof.Machine.execMfpi src s
  | .mtpi dst => Sys2Proof.Machine.execMtpi dst s
  | .sxt dst => Sys2Proof.Machine.execSxt dst s
  | .clrb dst => Sys2Proof.Machine.execClrb dst s
  | .comb dst => Sys2Proof.Machine.execComb dst s
  | .incb dst => Sys2Proof.Machine.execIncb dst s
  | .decb dst => Sys2Proof.Machine.execDecb dst s
  | .negb dst => Sys2Proof.Machine.execNegb dst s
  | .adcb dst => Sys2Proof.Machine.execAdcb dst s
  | .sbcb dst => Sys2Proof.Machine.execSbcb dst s
  | .tstb dst => Sys2Proof.Machine.execTstb dst s
  | .rorb dst => Sys2Proof.Machine.execRorb dst s
  | .rolb dst => Sys2Proof.Machine.execRolb dst s
  | .asrb dst => Sys2Proof.Machine.execAsrb dst s
  | .aslb dst => Sys2Proof.Machine.execAslb dst s
  | .mfpd src => Sys2Proof.Machine.execMfpd src s
  | .mtpd dst => Sys2Proof.Machine.execMtpd dst s
  | .mul r src => Sys2Proof.Machine.execMul r src s
  | .div r src => Sys2Proof.Machine.execDiv r src s
  | .ash r src => Sys2Proof.Machine.execAsh r src s
  | .ashc r src => Sys2Proof.Machine.execAshc r src s
  | .xor r dst => Sys2Proof.Machine.execXor r dst s
  | .sob r nn => Sys2Proof.Machine.execSob r nn s
  | .mov src dst => Sys2Proof.Machine.execMov src dst s
  | .cmp src dst => Sys2Proof.Machine.execCmp src dst s
  | .bit src dst => Sys2Proof.Machine.execBit src dst s
  | .bic src dst => Sys2Proof.Machine.execBic src dst s
  | .bis src dst => Sys2Proof.Machine.execBis src dst s
  | .add src dst => Sys2Proof.Machine.execAdd src dst s
  | .movb src dst => Sys2Proof.Machine.execMovb src dst s
  | .cmpb src dst => Sys2Proof.Machine.execCmpb src dst s
  | .bitb src dst => Sys2Proof.Machine.execBitb src dst s
  | .bicb src dst => Sys2Proof.Machine.execBicb src dst s
  | .bisb src dst => Sys2Proof.Machine.execBisb src dst s
  | .sub src dst => Sys2Proof.Machine.execSub src dst s
  | .jsr r dst => Sys2Proof.Machine.execJsr r dst s
  | .rts r => Sys2Proof.Machine.execRts r s
  | .mark nn => Sys2Proof.Machine.execMark nn s

end Sys2Proof.Machine
end

