-- ==== Sys2Proof/Machine/Driver.lean ====
section
/-! DEFINITION. The pieces of the CPU driver's cycle around an instruction (48_cpu_driver.md R400): what it refuses,
resuming, the instruction fetch, the unknown opcode, the progress check. `Machine/Step.lean` only composes them. -/

namespace Sys2Proof.Machine

open Sys2Proof

/-- A registration is legal: an even address in the I/O page (20_memory.md R73). -/
def legalRegistration (a : Word) : Bool := !isOddAddr a && inIoPage a

/-- What the driver refuses before it starts: an address width other than 16 (00_scope.md R7), a registration
table with an illegal address (20_memory.md R73). -/
def launchRefusal (s : State) : Option Refusal :=
  if s.params.addrBits ≠ 16 then some (.addressWidth s.params.addrBits)
  else if s.devRead.all legalRegistration && s.devWrite.all legalRegistration then none
  else some .illegalRegistration

/-- The core is stopped by a fault: the stop that only a reset leaves (48_cpu_driver.md R412). -/
def faultStopped (s : State) : Bool :=
  match s.execState with
  | .stopped (.fault _) => true
  | .stopped .halt | .stopped .wait | .ready => false

/-- A single step resumes a core stopped by HALT or WAIT (R400, R411); nothing else changes by resuming. -/
def resume (s : State) : State :=
  match s.execState with
  | .stopped .halt | .stopped .wait => { s with execState := .ready }
  | .stopped (.fault _) | .ready => s

/-- The state at the start of a cycle: resumed, and marked as started (log 12). -/
def beginCycle (s : State) : State := { resume s with started := true }

/-- `let A = pc; let ir = FetchWord()` (R400, R401): the address and the instruction word. -/
def fetchInstruction : Exec (Word × Word) := do
  let a ← readReg .r7
  let ir ← fetchWord
  return (a, ir)

/-- The stop for a word no family claims (R408): the fetch's advance stands, nothing else changes. -/
def unknownOpcode (ir a : Word) (s : State) : State := s.stop (.fault (.unknownOpcode ir a))

/-- The progress check (R409): an instruction that completed without stopping and left the PC at its own address
stops the core, when NO_PROGRESS_CHECK is set. -/
def checkProgress (a : Word) (s : State) : State :=
  if s.execState = .ready ∧ s.params.noProgressCheck = true ∧ s.reg .r7 = a then s.stop (.fault (.noProgress a)) else s

/-- The cycle's outcome after the instruction's: the progress check on its next state. -/
def afterInstruction (a : Word) (o : Host.Outcome State Fault Refusal) : Host.Outcome State Fault Refusal :=
  match o with
  | .next s => .next (checkProgress a s)
  | .fault f => .fault f
  | .refused r => .refused r

/-- The addresses where the fetch of an instruction of three words at `a` reads. -/
def fetchWindow (a : Word) : List Word := [a, a + 2, a + 4]

/-- Bytes stored in the array at consecutive addresses. -/
def State.storeBytes (s : State) : Word → List Byte → State
  | _, [] => s
  | a, b :: bs => State.storeBytes (s.setByte a b) (a + 1) bs

/-- An even PC, written, pointing at `bytes` in the byte array, in a core that may run (log 16). -/
def placeInstruction (s : State) (bytes : List Byte) : State :=
  let a := wordAddr (s.reg .r7)
  let t := (s.storeBytes a bytes).setReg .r7 a
  { t with
    devRead := t.devRead.filter fun d => !(fetchWindow a).contains d
    execState := if faultStopped t then .ready else t.execState }

end Sys2Proof.Machine
end

