-- ==== Sys2Proof/Machine/Step.lean ====
section
/-! DEFINITION. One step of the machine: `run_one_cycle()` of 48_cpu_driver.md R400 (log 5). -/

namespace Sys2Proof.Machine

open Sys2Proof

/-- The cycle of a core that is Ready: fetch, classify, execute, check progress (R400). -/
def runCycle (s : State) : Host.Outcome State Fault Refusal :=
  match fetchInstruction s with
  | .error (.fault f) t => .next (t.stop (.fault f))
  | .error (.refuse r) _ => .refused r
  | .ok (a, ir) t =>
    match decodeWord ir with
    | .error _ => .next (unknownOpcode ir a t)
    | .ok i => afterInstruction a (exec i t)

/-- `run_one_cycle()` (R400): a fault stop is sticky (R412); HALT and WAIT stops are resumed (R411). -/
def step (s : State) : Host.Outcome State Fault Refusal :=
  match launchRefusal s with
  | some r => .refused r
  | none => if faultStopped s then .next s else runCycle (beginCycle s)

/-- The state with the instruction whose low `nbits` bits are those of `w`, its other words zero, placed where
`step` fetches next (log 16). -/
def State.withFetchWord (s : State) (nbits w : Nat) : State := placeInstruction s (tableBytes nbits w)

end Sys2Proof.Machine
end

