-- ==== Sys2Proof/Machine/RunControl.lean ====
section
/-! DEFINITION. The host surface of 48_cpu_driver.md R413: run control, the loader (70_reset_and_hazards.md R471),
handler registration (20_memory.md R73), the host's own writes (R93, R411) and reset (R412). Each call is made between
two steps (R414). -/

namespace Sys2Proof.Machine

open Sys2Proof

/-- `get_run()` (10_state.md R50). -/
def getRun (s : State) : Bool := s.runFlag

/-- `set_run(b)` (R411 to R413): writes the Run Flag; `set_run(true)` moves a HALT or WAIT stop to Ready. -/
def setRun (b : Bool) (s : State) : State :=
  if b then { resume s with runFlag := true } else { s with runFlag := false }

/-- What `run_one_cycle()` returns: `exec = Ready` after the cycle (R400). -/
def continues (s : State) : Bool := decide (s.execState = .ready)

/-- The `set_run` calls that take effect between two instructions, in the order they are made (R414). -/
def applyCalls (calls : List Bool) (s : State) : State := calls.foldl (fun t b => setRun b t) s

/-- The loop of `run` (R406) with the console's calls (R414): one slot for each cycle the limit allows, holding the
`set_run` calls that take effect before it; then the Run Flag is read; the loop ends when a cycle returns false. -/
def runWith : List (List Bool) → State → Host.Outcome State Fault Refusal
  | [], s => .next s
  | calls :: rest, s =>
    if getRun (applyCalls calls s) then
      match step (applyCalls calls s) with
      | .next t => if continues t then runWith rest t else .next t
      | .fault f => .fault f
      | .refused r => .refused r
    else .next (applyCalls calls s)

/-- `run(limit)` (R406) with no `set_run` call made while it runs. -/
def runLimit (limit : Nat) (s : State) : Host.Outcome State Fault Refusal := runWith (List.replicate limit []) s

/-- `run()` without a limit, in some course of console calls, returns in `t`: after some number of cycles the loop ends
there, by a cleared Run Flag or by a cycle that returned false (R406, R414; log 17). -/
def RunReturns (s t : State) : Prop :=
  ∃ calls, runWith calls s = .next t ∧ (getRun t = false ∨ continues t = false)

/-- The host may write memory and registers: before the first instruction, or while the core is stopped
(20_memory.md R93, R484). -/
def hostMayWrite (s : State) : Bool := !s.started || !continues s

/-- The words of an image, each through the bus (R471). -/
def loadFrom : List Word → Word → Exec Unit
  | [], _ => pure ()
  | v :: rest, a => do
    memWrite .word a v
    loadFrom rest (a + 2)

/-- `load_words(words, base)` (R471): an odd base or a load past 2^16 is refused. -/
def loadWords (words : List Word) (base : Word) (s : State) : Host.Outcome State Fault Refusal :=
  if hostMayWrite s then
    if isOddAddr base || decide (65536 < base.toNat + 2 * words.length) then .refused .illegalLoad
    else finish (do loadFrom words base; writeReg .r7 base) s
  else .refused .hostWhileRunning

/-- The host writes a register while it may (R93, R411). -/
def hostWriteReg (r : Reg) (v : Word) (s : State) : Host.Outcome State Fault Refusal :=
  if hostMayWrite s then .next (s.setReg r v) else .refused .hostWhileRunning

/-- The host writes the PSW, all 16 bits, while it may (R411, R93). -/
def hostWritePsw (v : Word) (s : State) : Host.Outcome State Fault Refusal :=
  if hostMayWrite s then .next { s with psw := v } else .refused .hostWhileRunning

/-- The host's own write to memory, while it may (R93). How it reaches memory, and what a word at an odd address does,
the spec leaves open. DESIGN CHOICE (log 21): it goes through `MemWrite` as the loader's writes do (R471), a routed
address to its writer; a word at an odd address is refused and changes nothing. -/
def hostWriteMem (w : Width) (a v : Word) (s : State) : Host.Outcome State Fault Refusal :=
  if hostMayWrite s then
    if w = .word ∧ isOddAddr a then .refused .illegalHostAccess else finish (memWrite w a v) s
  else .refused .hostWhileRunning

/-- `register_reader(addr, cb)` (20_memory.md R73): only before the first instruction. -/
def registerReader (a : Word) (s : State) : Host.Outcome State Fault Refusal :=
  if s.started then .refused .hostWhileRunning
  else if legalRegistration a then .next { s with devRead := a :: s.devRead }
  else .refused .illegalRegistration

/-- `register_writer(addr, cb)` (20_memory.md R73): only before the first instruction. -/
def registerWriter (a : Word) (s : State) : Host.Outcome State Fault Refusal :=
  if s.started then .refused .hostWhileRunning
  else if legalRegistration a then .next { s with devWrite := a :: s.devWrite }
  else .refused .illegalRegistration

/-- The four register addresses of the serial device at `SERIAL_BASE`: receiver status, receiver buffer, transmitter
status, transmitter buffer (60_exceptions.md R455; log 18). -/
def serialRegisters (base : Word) : List Word := [base, base + 2, base + 4, base + 6]

/-- Reset (70_reset_and_hazards.md R470) of a core with its launch parameters and registration table: the only way
out of a fault stop (R412). What devices answer after a reset the spec leaves to them (R78, R470 step 5). DESIGN CHOICE
(log 22): the counter of free values and the record of handler calls go on, so a read after a reset is fresh. -/
def resetCore (mem0 : Memory) (s : State) : State :=
  { State.launch s.params mem0 s.devRead s.devWrite with draws := s.draws, devCalls := s.devCalls }

end Sys2Proof.Machine
end

