-- ==== Sys2Proof/Safety.lean ====
section
/-! DEFINITION. The terms in which claims are made: when an access, an operand or a form goes through, what it
answers and what it leaves, each written as a plain function of the state (no `Exec`), and the invariant of the
machine. Nothing here is called by the machine. -/

namespace Sys2Proof.Machine

open Sys2Proof

/-! ### Bus accesses -/

/-- The bus lock is free: so it is between any two handler calls (20_memory.md R80). -/
def busFree (s : State) : Bool := decide (s.busLock = .free)

/-- The access is aligned: a byte anywhere, a word at an even address (20_memory.md R76). -/
def aligned (w : Width) (a : Word) : Bool :=
  match w with
  | .byte => true
  | .word => !isOddAddr a

/-- The value an aligned read answers: the device's value, or the array's bytes (20_memory.md R77, R78). -/
def busValue (s : State) (w : Width) (a : Word) : Word :=
  if s.routedRead a then truncTo w (Config.deviceRead s.draws) else s.arrayRead w a

/-- The state after an aligned read: unchanged but for a handler call when the address is routed. -/
def afterRead (s : State) (w : Width) (a : Word) : State :=
  if s.routedRead a then
    { s with draws := s.draws + 1, devCalls := ⟨.read, a, w, truncTo w (Config.deviceRead s.draws)⟩ :: s.devCalls }
  else s

/-- The state after an aligned write (20_memory.md R79). -/
def afterWrite (s : State) (w : Width) (a : Word) (v : Word) : State :=
  if s.routedWrite a then { s with devCalls := ⟨.write, a, w, truncTo w v⟩ :: s.devCalls } else s.arrayWrite w a v

/-! ### Fetch and stack -/

/-- A fetch goes through: the PC is even, the bus is free. -/
def fetchReady (s : State) : Bool := busFree s && !isOddAddr (s.reg .r7)

/-- The word a fetch answers. -/
def fetchValue (s : State) : Word := busValue s .word (s.reg .r7)

/-- The state after a fetch: the read made, the PC 2 further (40_addressing_modes.md R160). -/
def afterFetch (s : State) : State := (afterRead s .word (s.reg .r7)).setReg .r7 (s.reg .r7 + 2)

/-- A stack access goes through: SP is even, the bus is free. -/
def stackReady (s : State) : Bool := busFree s && !isOddAddr (s.reg .r6)

/-- The state after `Push(v)` (00_scope.md R15). -/
def afterPush (s : State) (v : Word) : State := afterWrite (s.setReg .r6 (s.reg .r6 - 2)) .word (s.reg .r6 - 2) v

/-- The word `Pop()` answers. -/
def popValue (s : State) : Word := busValue s .word (s.reg .r6)

/-- The state after `Pop()` (00_scope.md R15). -/
def afterPop (s : State) : State := (afterRead s .word (s.reg .r6)).setReg .r6 (s.reg .r6 + 2)

/-! ### Operands -/

/-- The effective address of each mode (40_addressing_modes.md R161). -/
def effAddr (s : State) (o : Specifier) (w : Width) : Word :=
  match o.mode with
  | .register => 0
  | .deferred => s.reg o.reg
  | .autoInc => s.reg o.reg
  | .autoIncDeferred => busValue s .word (s.reg o.reg)
  | .autoDec => s.reg o.reg - stepOf o.reg w
  | .autoDecDeferred => busValue s .word (s.reg o.reg - 2)
  | .index => (afterFetch s).reg o.reg + fetchValue s
  | .indexDeferred => busValue (afterFetch s) .word ((afterFetch s).reg o.reg + fetchValue s)

/-- The state each mode leaves: its register step, its fetch, its pointer read (R161). -/
def afterResolve (s : State) (o : Specifier) (w : Width) : State :=
  match o.mode with
  | .register | .deferred => s
  | .autoInc => s.setReg o.reg (s.reg o.reg + stepOf o.reg w)
  | .autoIncDeferred => afterRead (s.setReg o.reg (s.reg o.reg + 2)) .word (s.reg o.reg)
  | .autoDec => s.setReg o.reg (s.reg o.reg - stepOf o.reg w)
  | .autoDecDeferred => afterRead (s.setReg o.reg (s.reg o.reg - 2)) .word (s.reg o.reg - 2)
  | .index => afterFetch s
  | .indexDeferred => afterRead (afterFetch s) .word ((afterFetch s).reg o.reg + fetchValue s)

/-- The mode's own accesses go through: its pointer and its extension word are at even addresses, the bus is free. -/
def resolvable (s : State) (o : Specifier) : Bool :=
  busFree s &&
  match o.mode with
  | .register | .deferred | .autoInc | .autoDec => true
  | .autoIncDeferred => !isOddAddr (s.reg o.reg)
  | .autoDecDeferred => !isOddAddr (s.reg o.reg - 2)
  | .index => fetchReady s
  | .indexDeferred => fetchReady s && !isOddAddr ((afterFetch s).reg o.reg + fetchValue s)

/-- The operand a specifier names (R167). -/
def operandOf (s : State) (o : Specifier) (w : Width) : Operand :=
  if o.mode = .register then .reg o.reg else .mem (effAddr s o w)

/-- The operand's access goes through: a register's always, memory's when the address is aligned and the bus free. -/
def canAccess (s : State) (op : Operand) (w : Width) : Bool :=
  match op with
  | .reg _ => true
  | .mem ea => busFree s && aligned w ea

/-- The value `ReadOp` answers (R170). -/
def valueOf (s : State) (op : Operand) (w : Width) : Word :=
  match op with
  | .reg r => truncTo w (s.reg r)
  | .mem ea => busValue s w ea

/-- The state after `ReadOp`. -/
def afterReadOp (s : State) (op : Operand) (w : Width) : State :=
  match op with
  | .reg _ => s
  | .mem ea => afterRead s w ea

/-- The state after `WriteOp` (R171 to R173). -/
def afterWriteOp (s : State) (op : Operand) (w : Width) (v : Word) : State :=
  match op, w with
  | .reg r, .word => s.setReg r v
  | .reg r, .byte => s.setReg r (highByte (s.reg r) ++ lowByte v)
  | .mem ea, w => afterWrite s w ea v

/-- A specifier resolved and read: the operand, the value, the state after. -/
structure OperandRead where
  op    : Operand
  value : Word
  after : State
deriving DecidableEq, Repr

/-- `Resolve` then `ReadOp` of a specifier. -/
def readSpec (s : State) (o : Specifier) (w : Width) : OperandRead :=
  let op := operandOf s o w
  let t := afterResolve s o w
  ⟨op, valueOf t op w, afterReadOp t op w⟩

/-- `Resolve` of the specifier goes through, then the operand's read or write. -/
def specReady (s : State) (o : Specifier) (w : Width) : Bool :=
  resolvable s o && canAccess (afterResolve s o w) (operandOf s o w) w

/-- The addresses of the bytes an access of a width touches. -/
def bytesAt (w : Width) (a : Word) : List Word :=
  match w with
  | .byte => [a]
  | .word => [a, a + 1]

/-- The registers a specifier's own resolution may write: the register of modes 2 to 5, and the PC of modes 6 and 7,
whose extension word is fetched. -/
def steppedBy (o : Specifier) : List Reg :=
  match o.mode with
  | .register | .deferred => []
  | .autoInc | .autoIncDeferred | .autoDec | .autoDecDeferred => [o.reg]
  | .index | .indexDeferred => [.r7]

/-- The register a specifier names as its operand: mode 0 only. -/
def namedBy (o : Specifier) : List Reg :=
  if o.mode = .register then [o.reg] else []

/-! ### Registers that nothing has written -/

/-- The registers that the accesses of a specifier's own resolution read: its register, and the PC of modes 6 and 7. -/
def resolutionReads (o : Specifier) : List Reg :=
  match o.mode with
  | .register => []
  | .deferred | .autoInc | .autoIncDeferred | .autoDec | .autoDecDeferred => [o.reg]
  | .index | .indexDeferred => [.r7, o.reg]

/-- The registers read when a specifier is resolved and its operand read, or a byte of it written (R173). -/
def operandReads (o : Specifier) : List Reg := resolutionReads o ++ namedBy o

/-- The registers an instruction may read, by its rule's pseudocode. Where one of them has not been written since reset
10_state.md R32 may stop the core with code 7 of 60_exceptions.md R430; the machine goes on with the value held (log 1).
Elsewhere R32 raises nothing. -/
def registersRead : Instr → List Reg
  | .bne _ | .beq _ | .bge _ | .blt _ | .bgt _ | .ble _ | .bpl _ | .bmi _ | .bhi _ | .blos _ | .bvc _ | .bvs _ | .bcc _
  | .bcs _ | .bhis _ | .blo _ | .br _ => [.r7]
  | .cx _ | .sx _ | .clc | .clv | .clz | .cln | .ccc | .sec | .sev | .sez | .sen | .scc => []
  | .halt | .wait | .reset | .nop | .mark _ | .mfpi _ | .mtpi _ | .mfpd _ | .mtpd _ => []
  | .rti | .rtt => [.r6]
  | .bpt | .iot => [.r6, .r7]
  | .jmp o | .clr o | .sxt o => resolutionReads o
  | .swab o | .clrb o | .com o | .comb o | .inc o | .incb o | .dec o | .decb o | .neg o | .negb o | .adc o | .adcb o
  | .sbc o | .sbcb o | .tst o | .tstb o | .ror o | .rorb o | .rol o | .rolb o | .asr o | .asrb o | .asl o | .aslb o =>
    operandReads o
  | .mul r o | .ash r o | .xor r o => r :: operandReads o
  | .div r o | .ashc r o => r :: oddOf r :: operandReads o
  | .sob r _ => [r, .r7]
  | .mov src dst | .movb src dst => operandReads src ++ resolutionReads dst
  | .cmp src dst | .cmpb src dst | .bit src dst | .bitb src dst | .bic src dst | .bicb src dst | .bis src dst
  | .bisb src dst | .add src dst | .sub src dst => operandReads src ++ operandReads dst
  | .jsr r o => resolutionReads o ++ [r, .r6, .r7]
  | .rts r => [r, .r6]

/-- Every register of the list has been written since reset (10_state.md R32). -/
def allWritten (s : State) (l : List Reg) : Bool := l.all s.written

/-- The cell with another value, if nothing has written it. -/
def RegCell.refill (v : Word) (c : RegCell) : RegCell := if c.written then c else ⟨v, false⟩

/-- The state with other values in the registers that nothing has written. -/
def State.refill (f : Reg → Word) (s : State) : State :=
  { s with regs := ⟨s.regs.r0.refill (f .r0), s.regs.r1.refill (f .r1), s.regs.r2.refill (f .r2), s.regs.r3.refill (f .r3),
      s.regs.r4.refill (f .r4), s.regs.r5.refill (f .r5), s.regs.r6.refill (f .r6), s.regs.r7.refill (f .r7)⟩ }

/-! ### The invariant -/

/-- The registrations and the address width are the ones the driver accepts (00_scope.md R7, 20_memory.md R73). -/
def launchLegal (s : State) : Bool := decide (launchRefusal s = none)

/-- The Run Flag is clear in a stopped core (48_cpu_driver.md R410). -/
def stopClearsFlag (s : State) : Bool := continues s || !s.runFlag

/-- The invariant of the machine: memory in its canonical form, the bus lock free between cycles (20_memory.md R80),
a legal launch, the Run Flag clear while stopped. -/
def Inv (s : State) : Prop :=
  s.mem.wf = true ∧ s.busLock = .free ∧ launchLegal s = true ∧ stopClearsFlag s = true

end Sys2Proof.Machine
end

