-- ==== Sys2Proof/Certificates/Slice0/Obligations.lean ====
section
/-! DEFINITION. The statements for the provers, in the order of OBLIGATIONS.json. The first part is the vocabulary the
statements share: encodings as the format tables of 30_encoding.md R114 write them, the shapes of an instruction's rule
and of a frame. A claim's docstring names the rule of spec/ it formalises. -/

namespace Sys2Proof.Claims

open Sys2Proof Sys2Proof.Machine

/-! ### Encodings and forms -/

/-- One of two things by operand width. -/
def sized {α : Type} (w : Width) (b x : α) : α :=
  match w with
  | .byte => b
  | .word => x

/-- A single-operand word of a byte-capable instruction: byte flag, 9 bits of opcode, specifier (R113, R114). -/
def singleCode (w : Width) (code : BitVec 9) (o : Specifier) : Word :=
  BitVec.ofBool (sized w true false) ++ code ++ o.bits

/-- An SSDD word of a byte-capable instruction: byte flag, 3 bits of opcode, source, destination (R113, R114). -/
def doubleCode (w : Width) (code : BitVec 3) (src dst : Specifier) : Word :=
  BitVec.ofBool (sized w true false) ++ code ++ src.bits ++ dst.bits

/-- The default N and Z of `SetNZVC` on a result already masked to the width, V and C as given (00_scope.md R17). -/
def nz (w : Width) (r : Word) (v c : Option Bool) : Pattern := ⟨some (msbOf w r), some (decide (r = 0)), v, c⟩

/-- The rule of a single-operand read-modify-write instruction (43_single_operand.md R260): its encoding, and that it
completes for every operand whose accesses go through, with the result stored in the operand and the flags of the pattern. -/
def StoresResult (name : Width → Specifier → Instr) (code : BitVec 9) (result : Width → Word → Word → Word)
    (flags : Width → Word → Word → Word → Pattern) : Prop :=
  ∀ (w : Width) (o : Specifier),
    decodeWord (singleCode w code o) = .ok (name w o) ∧
    ∀ s : State, specReady s o w = true →
      let x := readSpec s o w
      let r := result w x.value s.psw
      exec (name w o) s = .next ((afterWriteOp x.after x.op w r).setFlags (flags w x.value r s.psw))

/-- The rule of an SSDD instruction that stores its result (45_ssdd.md R340): source first, then the destination in the
state the source leaves. -/
def CombinesResult (name : Specifier → Specifier → Instr) (w : Width) (flagBit : Width) (code : BitVec 3)
    (result : Word → Word → Word) (flags : Word → Word → Word → Pattern) : Prop :=
  ∀ src dst : Specifier,
    decodeWord (doubleCode flagBit code src dst) = .ok (name src dst) ∧
    ∀ s : State, specReady s src w = true → specReady (readSpec s src w).after dst w = true →
      let x := readSpec s src w
      let y := readSpec x.after dst w
      let r := result x.value y.value
      exec (name src dst) s = .next ((afterWriteOp y.after y.op w r).setFlags (flags x.value y.value r))

/-- The rule of an SSDD instruction that only sets flags (45_ssdd.md R340). -/
def ComparesOnly (name : Width → Specifier → Specifier → Instr) (code : BitVec 3)
    (flags : Width → Word → Word → Pattern) : Prop :=
  ∀ (w : Width) (src dst : Specifier),
    decodeWord (doubleCode w code src dst) = .ok (name w src dst) ∧
    ∀ s : State, specReady s src w = true → specReady (readSpec s src w).after dst w = true →
      let x := readSpec s src w
      let y := readSpec x.after dst w
      exec (name w src dst) s = .next (y.after.setFlags (flags w x.value y.value))

/-- The rule of a branch (41_branch.md R200): its encoding, its completion, the PC `2 * signed_8(off)` further when
the condition holds of N, Z, V, C, the state unchanged when it does not. -/
def Branches (name : BitVec 8 → Instr) (code : BitVec 8) (core : BitVec 8 → Instr)
    (cond : Bool → Bool → Bool → Bool → Bool) : Prop :=
  ∀ off : BitVec 8,
    decodeWord (code ++ off) = .ok (core off) ∧
    ∀ s : State, exec (name off) s = .next
        (if cond (s.psw.getLsbD 3) (s.psw.getLsbD 2) (s.psw.getLsbD 1) (s.psw.getLsbD 0) then
          s.setReg .r7 (BitVec.ofInt 16 ((s.reg .r7).toInt + 2 * off.toInt))
        else s)

/-- The signed reading of a value of a width (00_scope.md R9). -/
def signedAt (w : Width) (v : Word) : Int := sized w (lowByte v).toInt v.toInt

/-! ### Reset -/

/-- The spec's reset values (70_reset_and_hazards.md R470): no register written, PSW 0, memory as given, bus lock free,
Run Flag false, Ready, handlers as registered. -/
def HoldsResetValues (s : State) (p : Params) (m : Memory) (rd wr : List Word) : Prop :=
  (∀ r, s.written r = false) ∧ s.psw = 0 ∧ s.mem = m ∧ s.busLock = .free ∧ s.runFlag = false ∧ s.execState = .ready ∧
  s.devRead = rd ∧ s.devWrite = wr ∧ s.params = p

/-! ### Frames -/

/-- Every register outside the list keeps its value and its mark. -/
def keepsRegs (s t : State) (l : List Reg) : Prop :=
  ∀ r : Reg, r ∉ l → t.reg r = s.reg r ∧ t.written r = s.written r

/-- Every byte keeps its value, but those the predicate names as stored to. -/
def keepsBytes (s t : State) (stored : Word → Prop) : Prop :=
  ∀ c : Word, ¬ stored c → t.byteAt c = s.byteAt c

/-- PSW bits 15-4 are unchanged. -/
def keepsHigh (s t : State) : Prop := t.psw.extractLsb' 4 12 = s.psw.extractLsb' 4 12

/-- What no instruction writes: the handler tables, the launch parameters, the bus lock, the started mark. -/
def keepsLaunch (s t : State) : Prop :=
  t.devRead = s.devRead ∧ t.devWrite = s.devWrite ∧ t.params = s.params ∧ t.busLock = s.busLock ∧ t.started = s.started

/-- The run control is unchanged, or the instruction raised a fault and stopped the core (48_cpu_driver.md R410). -/
def keepsRun (s t : State) : Prop :=
  (t.execState = s.execState ∧ t.runFlag = s.runFlag) ∨
  (∃ f, t.execState = .stopped (.fault f) ∧ t.runFlag = false)

/-- The byte is one a destination specifier stores to: the bytes of the width at the address the resolver gives. -/
def storedBy (s : State) (o : Specifier) (w : Width) (c : Word) : Prop :=
  ∃ ea u, resolve o w s = .ok (.mem ea) u ∧ c ∈ bytesAt w ea

/-- The same for the destination of an SSDD instruction, resolved after the source is read. -/
def storedBySecond (s : State) (src dst : Specifier) (w : Width) (c : Word) : Prop :=
  ∃ sop u v x, resolve src w s = .ok sop u ∧ readOp sop w u = .ok v x ∧ storedBy x dst w c

/-- The single-operand instructions that store, with their width (43_single_operand.md). -/
def singleStores : List ((Specifier → Instr) × Width) :=
  [(.swab, .word), (.sxt, .word), (.clr, .word), (.clrb, .byte), (.com, .word), (.comb, .byte), (.inc, .word),
   (.incb, .byte), (.dec, .word), (.decb, .byte), (.neg, .word), (.negb, .byte), (.adc, .word), (.adcb, .byte),
   (.sbc, .word), (.sbcb, .byte), (.ror, .word), (.rorb, .byte), (.rol, .word), (.rolb, .byte), (.asr, .word),
   (.asrb, .byte), (.asl, .word), (.aslb, .byte)]

/-- The SSDD instructions that store, with their width (45_ssdd.md). -/
def doubleStores : List ((Specifier → Specifier → Instr) × Width) :=
  [(.mov, .word), (.movb, .byte), (.bic, .word), (.bicb, .byte), (.bis, .word), (.bisb, .byte), (.add, .word),
   (.sub, .word)]

/-- The SSDD instructions that read their destination, with their width (45_ssdd.md, 40_addressing_modes.md R175). -/
def doubleReads : List ((Specifier → Specifier → Instr) × Width) :=
  [(.cmp, .word), (.cmpb, .byte), (.bit, .word), (.bitb, .byte), (.bic, .word), (.bicb, .byte), (.bis, .word),
   (.bisb, .byte), (.add, .word), (.sub, .word)]

/-- The branches with an offset (41_branch.md). -/
def branches (off : BitVec 8) : List Instr :=
  [.br off, .bne off, .beq off, .bge off, .blt off, .bgt off, .ble off, .bpl off, .bmi off, .bhi off, .blos off,
   .bvc off, .bvs off, .bcc off, .bcs off, .bhis off, .blo off]

/-! ### Where an instruction stops -/

/-- Wherever the piece raises a fault, the instruction stops the core with that fault, in the state the raise left. -/
def StopsWhere {α : Type} (m : Exec α) (i : Instr) : Prop :=
  ∀ (s t : State) (f : Fault), m s = .error (.fault f) t → exec i s = .next (t.stop (.fault f))

/-- A specifier resolved and its operand read. -/
def readsOperand (o : Specifier) (w : Width) : Exec Word := do readOp (← resolve o w) w

/-- A specifier resolved and its operand written, not read. -/
def writesOperand (o : Specifier) (w : Width) (v : Word) : Exec Unit := do writeOp (← resolve o w) w v

/-- R179: where resolution steps a register or the PC and then raises. Modes 3 and 5 keep the register's step at an odd
pointer; mode 7 keeps the PC's advance at an odd pointer; a fetch of the extension word at an odd PC changes nothing. -/
def ResolutionRaisesAfterItsSteps : Prop :=
  ∀ (s : State) (r : Reg) (w : Width),
    (isOddAddr (s.reg r) = true →
      resolveEA ⟨.autoIncDeferred, r⟩ w s =
        .error (.fault (.busFault .oddAddress (s.reg r))) (s.setReg r (s.reg r + 2)) ∧
      resolveEA ⟨.autoDecDeferred, r⟩ w s =
        .error (.fault (.busFault .oddAddress (s.reg r - 2))) (s.setReg r (s.reg r - 2))) ∧
    (isOddAddr (s.reg .r7) = true → ∀ m ∈ [Mode.index, .indexDeferred],
      resolveEA ⟨m, r⟩ w s = .error (.fault (.busFault .oddAddress (s.reg .r7))) s) ∧
    (fetchReady s = true →
      let p := (if r = .r7 then s.reg .r7 + 2 else s.reg r) + busValue s .word (s.reg .r7)
      isOddAddr p = true →
        resolveEA ⟨.indexDeferred, r⟩ w s = .error (.fault (.busFault .oddAddress p))
          ((afterRead s .word (s.reg .r7)).setReg .r7 (s.reg .r7 + 2)))

/-- R179, R16: every instruction with an operand stops where the resolution of an operand, or its read or write, raises:
one operand. -/
def StopsWhereItsOperandRaises : Prop :=
  (∀ (f : Specifier → Instr) (w : Width) (o : Specifier),
    (f, w) ∈ singleStores ++ [(.tst, .word), (.tstb, .byte)] →
      StopsWhere (resolveEA o w) (f o) ∧
      (f o ∉ [.clr o, .clrb o, .sxt o] → StopsWhere (readsOperand o w) (f o)) ∧
      (f o ∈ [.clr o, .clrb o, .sxt o] → ∀ v, StopsWhere (writesOperand o w v) (f o))) ∧
  (∀ (r : Reg) (o : Specifier) (i : Instr),
    i ∈ [.mul r o, .ash r o, .ashc r o] ∨ (r.isOdd = false ∧ i = .div r o) →
      StopsWhere (resolveEA o .word) i ∧ StopsWhere (readsOperand o .word) i) ∧
  (∀ (r : Reg) (o : Specifier), StopsWhere (resolveEA o .word) (.jmp o) ∧ StopsWhere (resolveEA o .word) (.jsr r o) ∧
    StopsWhere (do let _ ← readReg r; let _ ← resolveEA o .word) (.xor r o) ∧
    StopsWhere (do let _ ← readReg r; readsOperand o .word) (.xor r o))

/-- R179, R16, R340: the same for two operands: the source's resolution and read, then, in the state the source leaves,
the destination's resolution, its read, or the write of MOV and MOVB. -/
def StopsWhereEitherOperandRaises : Prop :=
  let resolving (i : Instr) (w : Width) (src dst : Specifier) : Prop :=
    StopsWhere (resolveEA src w) i ∧ StopsWhere (readsOperand src w) i ∧
    StopsWhere (do let _ ← readsOperand src w; let _ ← resolveEA dst w) i
  (∀ (f : Specifier → Specifier → Instr) (w : Width) (src dst : Specifier), (f, w) ∈ doubleReads →
    resolving (f src dst) w src dst ∧ StopsWhere (do let _ ← readsOperand src w; readsOperand dst w) (f src dst)) ∧
  (∀ src dst : Specifier,
    resolving (.mov src dst) .word src dst ∧
    StopsWhere (do let v ← readsOperand src .word; writesOperand dst .word v) (.mov src dst) ∧
    resolving (.movb src dst) .byte src dst ∧
    StopsWhere (do let v ← readsOperand src .byte; writeOpSext (← resolve dst .byte) v) (.movb src dst))

/-! ### PSW bits 15-4 -/

/-- The PSW's bits 15-4 replaced, bits 3-0 kept. -/
def withHigh (h : BitVec 12) (s : State) : State := { s with psw := h ++ s.psw.extractLsb' 0 4 }

/-- The instruction loads the whole PSW: trap entry and return (10_state.md R42 (c), (d)). -/
def loadsPsw : Instr → Bool
  | .bpt | .iot | .rti | .rtt => true
  | _ => false

/-! ### The partition of the instruction space -/

/-- The rows of 30_encoding.md R139: first word, last word, family. -/
def partition : List (Nat × Nat × Option Family) :=
  [(0o000000, 0o000006, some .noOperand), (0o000007, 0o000077, none), (0o000100, 0o000177, some .singleOperand),
   (0o000200, 0o000207, some .other), (0o000210, 0o000237, none), (0o000240, 0o000277, some .conditionCode),
   (0o000300, 0o000377, some .singleOperand), (0o000400, 0o003777, some .branch), (0o004000, 0o004777, some .other),
   (0o005000, 0o006377, some .singleOperand), (0o006400, 0o006477, some .other), (0o006500, 0o006777, some .singleOperand),
   (0o007000, 0o007777, none), (0o010000, 0o067777, some .ssdd), (0o070000, 0o074777, some .rss),
   (0o075000, 0o076777, none), (0o077000, 0o077777, some .rss), (0o100000, 0o103777, some .branch),
   (0o104000, 0o104777, none), (0o105000, 0o106377, some .singleOperand), (0o106400, 0o106477, none),
   (0o106500, 0o106677, some .singleOperand), (0o106700, 0o107777, none), (0o110000, 0o167777, some .ssdd),
   (0o170000, 0o177777, none)]

end Sys2Proof.Claims

open Sys2Proof Sys2Proof.Machine Sys2Proof.Claims

/-! ## Encoding -/

/-- Decoding the bytes of an encoded instruction gives the instruction, an alias spelling giving the instruction whose
word it names; the bytes after it are left. Every operand value of every constructor. -/
def Obligations.DecodingAnEncodedInstructionGivesIt : Prop :=
  ∀ (i : Instr) (rest : List Byte),
    decodeBytes (lowByte (encodeWord i) :: highByte (encodeWord i) :: rest) = .ok (i.core, rest) ∧
    (i.isAlias = false → i.core = i) ∧ (i.isAlias = true → i.core.isAlias = false)

/-- Encoding a decoded instruction gives its word back, and the decoder answers no alias spelling. -/
def Obligations.EncodingADecodedWordGivesTheWord : Prop :=
  ∀ (ir : Word) (i : Instr), decodeWord ir = .ok i → encodeWord i = ir ∧ i.isAlias = false

/-- R138: the only word that two families claim is 0o000240, No-Operand and Condition-Code; it goes to the second, whose
effect is NOP's. -/
def Obligations.OnlyTheNopWordIsClaimedTwice : Prop :=
  (∀ (ir : Word) (f g : Family), f ≠ g → (f.decode ir).isSome = true → (g.decode ir).isSome = true →
    ir = 0o000240 ∧ (f = .noOperand ∨ f = .conditionCode) ∧ (g = .noOperand ∨ g = .conditionCode)) ∧
  classify 0o000240 = some .conditionCode ∧ decodeWord 0o000240 = .ok (.cx 0) ∧
  Family.noOperand.decode 0o000240 = some .nop ∧ ∀ s : State, exec (.cx 0) s = exec .nop s

/-- The partition table of R139, family by family: every word lies in a row, and its family is the row's. -/
def Obligations.WordsFallIntoThePartitionRows : Prop :=
  ∀ ir : Word, ∃ row ∈ partition, row.1 ≤ ir.toNat ∧ ir.toNat ≤ row.2.1 ∧ classify ir = row.2.2

/-- Words written out from the examples of 95_test_vectors.md decode to what they stand for. -/
def Obligations.ExampleWordsDecode : Prop :=
  decodeWord 0o000401 = .ok (.br 1) ∧ decodeWord 0o000257 = .ok (.cx 0b1111) ∧ decodeWord 0o000262 = .ok (.sx 0b0010) ∧
  decodeWord 0o000004 = .ok .iot ∧ decodeWord 0o105726 = .ok (.tstb ⟨.autoInc, .r6⟩) ∧
  decodeWord 0o000137 = .ok (.jmp ⟨.autoIncDeferred, .r7⟩) ∧ decodeWord 0o071002 = .ok (.div .r0 ⟨.register, .r2⟩) ∧
  decodeWord 0o077003 = .ok (.sob .r0 3) ∧ decodeWord 0o016061 = .ok (.mov ⟨.index, .r0⟩ ⟨.index, .r1⟩) ∧
  decodeWord 0o160102 = .ok (.sub ⟨.register, .r1⟩ ⟨.register, .r2⟩) ∧
  decodeWord 0o004577 = .ok (.jsr .r5 ⟨.indexDeferred, .r7⟩) ∧ decodeWord 0o000205 = .ok (.rts .r5) ∧
  decodeWord 0o006402 = .ok (.mark 2) ∧ decodeWord 0o104000 = .error (.unknownOpcode 0o104000)

/-! ## Reset, the invariant, the bus -/

/-- Reset with any launch parameters, initial memory and registrations (R470 steps 1 to 5), and the reset of a core in
any state, which keeps its own. The values registers HOLD at reset are the model's choice (log 1) and not stated. -/
def Obligations.ResetLeavesTheSpecValues : Prop :=
  ∀ (p : Params) (m : Memory) (rd wr : List Word) (old : State),
    HoldsResetValues (State.launch p m rd wr) p m rd wr ∧
    HoldsResetValues (resetCore m old) old.params m old.devRead old.devWrite

/-- The reset state meets the invariant. -/
def Obligations.ResetMeetsTheInvariant : Prop := Inv State.reset

/-- Every step keeps the invariant: canonical memory, free bus lock (R80), legal launch, and the Run Flag clear in a
stopped core (R410). -/
def Obligations.StepKeepsTheInvariant : Prop := ∀ s t : State, Inv s → step s = .next t → Inv t

/-- R79, R75: a word written to the array lands low byte at the address, high byte after it, and no other byte changes;
a byte write changes exactly one byte; both keep the canonical form of memory. -/
def Obligations.ArrayWritesAreLittleEndian : Prop :=
  ∀ (s : State) (a v : Word), s.mem.wf = true → busFree s = true → s.routedWrite a = false →
    (isOddAddr a = false → ∃ t, memWrite .word a v s = .ok () t ∧ t.byteAt a = BitVec.ofNat 8 v.toNat ∧
      t.byteAt (a + 1) = BitVec.ofNat 8 (v.toNat / 256) ∧ (∀ c, c ≠ a → c ≠ a + 1 → t.byteAt c = s.byteAt c) ∧
      t = { s with mem := t.mem } ∧ t.mem.wf = true ∧
      (s.routedRead a = false → memRead .word a t = .ok v t)) ∧
    (∃ t, memWrite .byte a v s = .ok () t ∧ t.byteAt a = BitVec.ofNat 8 v.toNat ∧
      (∀ c, c ≠ a → t.byteAt c = s.byteAt c) ∧ t = { s with mem := t.mem } ∧ t.mem.wf = true)

/-- R77, R78: a read of the array answers its bytes and changes nothing; a routed read answers some value of the width,
makes one handler call with the access address and width, and leaves the array alone. -/
def Obligations.BusReadsRouteByWordAddress : Prop :=
  ∀ (s : State) (w : Width) (a : Word), busFree s = true → (w = .word → isOddAddr a = false) →
    ((a &&& 0o177776) ∉ s.devRead →
      memRead w a s = .ok (sized w ((s.byteAt a).setWidth 16)
        (BitVec.ofNat 16 ((s.byteAt a).toNat + 256 * (s.byteAt (a + 1)).toNat))) s) ∧
    ((a &&& 0o177776) ∈ s.devRead → ∃ v : Word, (w = .byte → v.toNat < 256) ∧
      memRead w a s = .ok v { s with draws := s.draws + 1, devCalls := ⟨.read, a, w, v⟩ :: s.devCalls })

/-- R74, R79: a routed write hands address, width and value to the writer and leaves the array alone. -/
def Obligations.RoutedWritesBypassTheArray : Prop :=
  ∀ (s : State) (w : Width) (a v : Word), busFree s = true → (w = .word → isOddAddr a = false) →
    (a &&& 0o177776) ∈ s.devWrite →
      memWrite w a v s = .ok () { s with devCalls := ⟨.write, a, w, v &&& sized w 0o377 0o177777⟩ :: s.devCalls }

/-- R76: a word access at an odd address raises before anything is read, written or called; so the fetch (R160) leaves
the PC, `Pop` leaves SP, and `Push` leaves SP 2 lower (R15). A byte access goes through at every address. -/
def Obligations.OddWordAccessesRaise : Prop :=
  (∀ (s : State) (a v : Word), isOddAddr a = true →
    memRead .word a s = .error (.fault (.busFault .oddAddress a)) s ∧
    memWrite .word a v s = .error (.fault (.busFault .oddAddress a)) s) ∧
  (∀ s : State, isOddAddr (s.reg .r7) = true →
    fetchWord s = .error (.fault (.busFault .oddAddress (s.reg .r7))) s) ∧
  (∀ s : State, isOddAddr (s.reg .r6) = true →
    pop s = .error (.fault (.busFault .oddAddress (s.reg .r6))) s ∧
    ∀ v, push v s = .error (.fault (.busFault .oddAddress (s.reg .r6 - 2))) (s.setReg .r6 (s.reg .r6 - 2))) ∧
  (∀ (s : State) (a v : Word), busFree s = true →
    (∃ x t, memRead .byte a s = .ok x t) ∧ ∃ t, memWrite .byte a v s = .ok () t)

/-- R31, and the marks of R32: every write sets the value and the mark of its register and no other, and no instruction
clears a mark. Where R32 would have a read of an unmarked register stop the core, the machine goes on with the value the
register holds (log 1, the model's choice). What that value is never matters to an instruction that reads marked
registers only, nor to a step of one: with other values in the unmarked registers each does the same. -/
def Obligations.UnwrittenRegistersHaveNoInfluence : Prop :=
  (∀ (s : State) (r : Reg) (v : Word), readReg r s = .ok (s.reg r) s ∧
    ∃ t, writeReg r v s = .ok () t ∧ t.reg r = v ∧ t.written r = true ∧
      (∀ q, q ≠ r → t.reg q = s.reg q ∧ t.written q = s.written q) ∧ t = { s with regs := t.regs }) ∧
  (∀ (i : Instr) (s t : State) (r : Reg), exec i s = .next t → s.written r = true → t.written r = true) ∧
  (∀ (i : Instr) (s t : State) (f : Reg → Word), allWritten s (registersRead i) = true → exec i s = .next t →
    exec i (s.refill f) = .next (t.refill f)) ∧
  (∀ (s t : State) (f : Reg → Word), s.written .r7 = true →
    (∀ i, decodeWord (fetchValue (beginCycle s)) = .ok i → allWritten s (registersRead i) = true) →
    step s = .next t → step (s.refill f) = .next (t.refill f))

/-! ## Operands -/

/-- R161, R162, R163 in register modes 1 to 5: the address, the register's step and the pointer read of each mode, for
every register and width. -/
def Obligations.RegisterModesResolve : Prop :=
  ∀ (s : State) (r : Reg) (w : Width), busFree s = true →
    let step : Word := if w = .byte ∧ r ≠ .r6 ∧ r ≠ .r7 then 1 else 2
    resolveEA ⟨.deferred, r⟩ w s = .ok (s.reg r) s ∧
    resolveEA ⟨.autoInc, r⟩ w s = .ok (s.reg r) (s.setReg r (s.reg r + step)) ∧
    resolveEA ⟨.autoDec, r⟩ w s = .ok (s.reg r - step) (s.setReg r (s.reg r - step)) ∧
    (isOddAddr (s.reg r) = false → resolveEA ⟨.autoIncDeferred, r⟩ w s =
      .ok (busValue s .word (s.reg r)) (afterRead (s.setReg r (s.reg r + 2)) .word (s.reg r))) ∧
    (isOddAddr (s.reg r) = false → resolveEA ⟨.autoDecDeferred, r⟩ w s =
      .ok (busValue s .word (s.reg r - 2)) (afterRead (s.setReg r (s.reg r - 2)) .word (s.reg r - 2)))

/-- R161, R164 in index modes 6 and 7: the extension word is fetched first, and the base register is read after the
fetch, so that R7 is already past the index word. -/
def Obligations.IndexModesResolve : Prop :=
  ∀ (s : State) (r : Reg) (w : Width), fetchReady s = true →
    let x := busValue s .word (s.reg .r7)
    let u := (afterRead s .word (s.reg .r7)).setReg .r7 (s.reg .r7 + 2)
    let base := if r = .r7 then s.reg .r7 + 2 else s.reg r
    resolveEA ⟨.index, r⟩ w s = .ok (base + x) u ∧
    (isOddAddr (base + x) = false → resolveEA ⟨.indexDeferred, r⟩ w s =
      .ok (busValue u .word (base + x)) (afterRead u .word (base + x)))

/-- R179: a fault inside resolution keeps the register step or PC advance made before it; a fault in an operand access
leaves the state as the resolution left it; and every instruction with an operand stops there, with nothing else
changed (shown also on TST and CLR in full). -/
def Obligations.FaultsInsideResolutionKeepTheStep : Prop :=
  ResolutionRaisesAfterItsSteps ∧
  (∀ (s u t : State) (o : Specifier) (w : Width) (op : Operand) (e : Abort), resolve o w s = .ok op u →
    (readOp op w u = .error e t → t = u) ∧ (∀ v, writeOp op w v u = .error e t → t = u) ∧
    (∀ v, writeOpSext op v u = .error e t → t = u)) ∧
  StopsWhereItsOperandRaises ∧ StopsWhereEitherOperandRaises ∧
  (∀ (s : State) (r : Reg), isOddAddr (s.reg r) = true →
    exec (.tst ⟨.autoIncDeferred, r⟩) s =
      .next ((s.setReg r (s.reg r + 2)).stop (.fault (.busFault .oddAddress (s.reg r)))) ∧
    exec (.clr ⟨.autoDec, r⟩) s =
      .next ((s.setReg r (s.reg r - 2)).stop (.fault (.busFault .oddAddress (s.reg r - 2)))))

/-- R180: in every mode and width, resolving, reading and writing back the same value leaves memory unchanged and every
register as the resolution left it, when the operand is not routed to a device. -/
def Obligations.WritingBackTheSameValueChangesNothing : Prop :=
  ∀ (s : State) (o : Specifier) (w : Width), s.mem.wf = true → specReady s o w = true →
    s.devRead = [] → s.devWrite = [] →
    ∃ op u v x t, resolve o w s = .ok op u ∧ readOp op w u = .ok v x ∧ writeOp op w v x = .ok () t ∧
      t.mem = s.mem ∧ t.psw = s.psw ∧ ∀ r, t.reg r = u.reg r

/-- R170 to R174 on a register: a byte read gives the low byte, a byte write keeps the high byte, a word write replaces
the word, and MOVB's write sign-extends. -/
def Obligations.RegisterOperandsByWidth : Prop :=
  ∀ (s : State) (r : Reg) (v : Word),
    readOp (.reg r) .word s = .ok (s.reg r) s ∧
    readOp (.reg r) .byte s = .ok (BitVec.ofNat 16 ((s.reg r).toNat % 256)) s ∧
    writeOp (.reg r) .word v s = .ok () (s.setReg r v) ∧
    writeOp (.reg r) .byte v s =
      .ok () (s.setReg r (BitVec.ofNat 16 ((s.reg r).toNat / 256 * 256 + v.toNat % 256))) ∧
    writeOpSext (.reg r) v s = .ok () (s.setReg r (BitVec.ofInt 16 (v.extractLsb' 0 8).toInt))

/-- R35, R111: a specifier that does not step R7 as a register leaves the PC two further for each extension word. -/
def Obligations.ResolutionAdvancesThePcByItsExtensionWords : Prop :=
  ∀ (s : State) (o : Specifier) (w : Width), resolvable s o = true →
    (o.reg = .r7 → o.mode ≠ .autoDec ∧ o.mode ≠ .autoDecDeferred) →
    ∃ op t, resolve o w s = .ok op t ∧ t.reg .r7 = s.reg .r7 + BitVec.ofNat 16 (2 * o.extensionWords)

/-- R17: a pattern writes the flags it names and leaves the others and bits 15-4. -/
def Obligations.PatternsWriteOnlyTheirFlags : Prop :=
  ∀ (s : State) (q : Pattern), ∃ t, setFlags q s = .ok () t ∧
    t.psw.getLsbD 3 = q.n.getD (s.psw.getLsbD 3) ∧ t.psw.getLsbD 2 = q.z.getD (s.psw.getLsbD 2) ∧
    t.psw.getLsbD 1 = q.v.getD (s.psw.getLsbD 1) ∧ t.psw.getLsbD 0 = q.c.getD (s.psw.getLsbD 0) ∧
    keepsHigh s t ∧ t = { s with psw := t.psw }

/-! ## Branches, condition codes, no operand -/

/-- R200, R202 to R208: BR and the branches on Z and on the signed comparison: encoding, condition, target. -/
def Obligations.SignedBranches : Prop :=
  Branches .br 0o001 .br (fun _ _ _ _ => true) ∧
  Branches .bne 0o002 .bne (fun _ z _ _ => decide (z = false)) ∧
  Branches .beq 0o003 .beq (fun _ z _ _ => decide (z = true)) ∧
  Branches .bge 0o004 .bge (fun n _ v _ => decide (n = v)) ∧
  Branches .blt 0o005 .blt (fun n _ v _ => decide (n ≠ v)) ∧
  Branches .bgt 0o006 .bgt (fun n z v _ => decide (z = false ∧ n = v)) ∧
  Branches .ble 0o007 .ble (fun n z v _ => decide (z = true ∨ n ≠ v))

/-- R200, R209 to R216: the branches on one flag and on the unsigned comparison, with the spellings BHIS and BLO. -/
def Obligations.UnsignedAndFlagBranches : Prop :=
  Branches .bpl 0o200 .bpl (fun n _ _ _ => decide (n = false)) ∧
  Branches .bmi 0o201 .bmi (fun n _ _ _ => decide (n = true)) ∧
  Branches .bhi 0o202 .bhi (fun _ z _ c => decide (c = false ∧ z = false)) ∧
  Branches .blos 0o203 .blos (fun _ z _ c => decide (c = true ∨ z = true)) ∧
  Branches .bvc 0o204 .bvc (fun _ _ v _ => decide (v = false)) ∧
  Branches .bvs 0o205 .bvs (fun _ _ v _ => decide (v = true)) ∧
  Branches .bcc 0o206 .bcc (fun _ _ _ c => decide (c = false)) ∧
  Branches .bcs 0o207 .bcs (fun _ _ _ c => decide (c = true)) ∧
  Branches .bhis 0o206 .bcc (fun _ _ _ c => decide (c = false)) ∧
  Branches .blo 0o207 .bcs (fun _ _ _ c => decide (c = true))

/-- R370 to R373, R145: clear ANDs the complement of the mask into the PSW, set ORs the mask; nothing else changes; the
named spellings are particular masks; set-all then clear-all leaves the low four bits 0 and bits 15-4 unchanged. -/
def Obligations.ConditionCodeOperators : Prop :=
  (∀ (m : BitVec 4) (s : State),
    decodeWord (0o0012#12 ++ m) = .ok (.cx m) ∧ decodeWord (0o0013#12 ++ m) = .ok (.sx m) ∧
    exec (.cx m) s = .next { s with psw := s.psw &&& ~~~(m.setWidth 16) } ∧
    exec (.sx m) s = .next { s with psw := s.psw ||| m.setWidth 16 }) ∧
  (∀ s : State,
    exec .clc s = .next { s with psw := s.psw &&& 0o177776 } ∧ exec .clv s = .next { s with psw := s.psw &&& 0o177775 } ∧
    exec .clz s = .next { s with psw := s.psw &&& 0o177773 } ∧ exec .cln s = .next { s with psw := s.psw &&& 0o177767 } ∧
    exec .ccc s = .next { s with psw := s.psw &&& 0o177760 } ∧ exec .sec s = .next { s with psw := s.psw ||| 1 } ∧
    exec .sev s = .next { s with psw := s.psw ||| 2 } ∧ exec .sez s = .next { s with psw := s.psw ||| 4 } ∧
    exec .sen s = .next { s with psw := s.psw ||| 8 } ∧ exec .scc s = .next { s with psw := s.psw ||| 15 } ∧
    ∃ t u, exec (.sx 15) s = .next t ∧ exec (.cx 15) t = .next u ∧ u.psw.extractLsb' 0 4 = 0 ∧ keepsHigh s u)

/-- R230, R231, R410: HALT and WAIT stop the core with their reason and clear the Run Flag; nothing else changes. -/
def Obligations.HaltAndWaitStop : Prop :=
  decodeWord 0o000000 = .ok .halt ∧ decodeWord 0o000001 = .ok .wait ∧
  ∀ s : State, exec .halt s = .next { s with execState := .stopped .halt, runFlag := false } ∧
    exec .wait s = .next { s with execState := .stopped .wait, runFlag := false }

/-- R240, R235, R290, R384, R243: the stubs change nothing under `Nop`, the default, whatever their operand, and stop
with `Unimplemented` under `Fault`; NOP changes nothing. -/
def Obligations.StubsAndNop : Prop :=
  State.reset.params.unimplPolicy = .nop ∧ decodeWord 0o000005 = .ok .reset ∧
  ∀ (s : State) (o : Specifier) (nn : BitVec 6),
    decodeWord (0o0064#10 ++ nn) = .ok (.mark nn) ∧ decodeWord (0o0065#10 ++ o.bits) = .ok (.mfpi o) ∧
    decodeWord (0o0066#10 ++ o.bits) = .ok (.mtpi o) ∧ decodeWord (0o1065#10 ++ o.bits) = .ok (.mfpd o) ∧
    decodeWord (0o1066#10 ++ o.bits) = .ok (.mtpd o) ∧
    (s.params.unimplPolicy = .nop →
      exec .reset s = .next s ∧ exec (.mark nn) s = .next s ∧ exec (.mfpi o) s = .next s ∧ exec (.mtpi o) s = .next s ∧
      exec (.mfpd o) s = .next s ∧ exec (.mtpd o) s = .next s) ∧
    (s.params.unimplPolicy = .fault →
      exec .reset s = .next (s.stop (.fault (.unimplemented .reset))) ∧
      exec (.mark nn) s = .next (s.stop (.fault (.unimplemented .mark))) ∧
      exec (.mfpi o) s = .next (s.stop (.fault (.unimplemented .mfpi))) ∧
      exec (.mtpi o) s = .next (s.stop (.fault (.unimplemented .mtpi))) ∧
      exec (.mfpd o) s = .next (s.stop (.fault (.unimplemented .mfpd))) ∧
      exec (.mtpd o) s = .next (s.stop (.fault (.unimplemented .mtpd)))) ∧
    exec .nop s = .next s

/-- R433, R233, R234: BPT and IOT push the PSW, then the PC, and load the PC from the vector and the PSW from the word
after it; with SP odd the first push leaves SP 2 lower and stops. -/
def Obligations.TrapsEnterThroughTheirVectors : Prop :=
  decodeWord 0o000003 = .ok .bpt ∧ decodeWord 0o000004 = .ok .iot ∧
  ∀ (s : State) (i : Instr) (v : Word), (i = .bpt ∧ v = 0o014) ∨ (i = .iot ∧ v = 0o020) →
    (isOddAddr (s.reg .r6) = false → busFree s = true →
      let sp := s.reg .r6
      let u := afterWrite (s.setReg .r6 (sp - 2)) .word (sp - 2) s.psw
      let x := afterWrite (u.setReg .r6 (sp - 4)) .word (sp - 4) (s.reg .r7)
      let y := (afterRead x .word v).setReg .r7 (busValue x .word v)
      exec i s = .next { afterRead y .word (v + 2) with psw := busValue y .word (v + 2) }) ∧
    (isOddAddr (s.reg .r6) = true →
      exec i s = .next ((s.setReg .r6 (s.reg .r6 - 2)).stop (.fault (.busFault .oddAddress (s.reg .r6 - 2)))))

/-- R232, R237, R435: RTI and RTT pop the PC, then all 16 bits of the PSW; with SP odd nothing changes but the stop. -/
def Obligations.TrapReturnsPopPcAndPsw : Prop :=
  decodeWord 0o000002 = .ok .rti ∧ decodeWord 0o000006 = .ok .rtt ∧
  ∀ (s : State) (i : Instr), i = .rti ∨ i = .rtt →
    (isOddAddr (s.reg .r6) = false → busFree s = true →
      let sp := s.reg .r6
      let u := ((afterRead s .word sp).setReg .r6 (sp + 2)).setReg .r7 (busValue s .word sp)
      exec i s = .next { (afterRead u .word (sp + 2)).setReg .r6 (sp + 4) with psw := busValue u .word (sp + 2) }) ∧
    (isOddAddr (s.reg .r6) = true →
      exec i s = .next (s.stop (.fault (.busFault .oddAddress (s.reg .r6)))))

/-- R435: a trap, then a return from a handler that leaves SP and the two stacked words alone, restores the PC, the
whole PSW and SP. -/
def Obligations.TrapThenReturnRestores : Prop :=
  ∀ (s t u : State) (i j : Instr), i = .bpt ∨ i = .iot → j = .rti ∨ j = .rtt →
    s.mem.wf = true → s.devRead = [] → s.devWrite = [] → busFree s = true →
    isOddAddr (s.reg .r6) = false → exec i s = .next t →
    u.devRead = [] → busFree u = true → u.reg .r6 = t.reg .r6 →
    (∀ k : Word, k.toNat < 4 → u.byteAt (t.reg .r6 + k) = t.byteAt (t.reg .r6 + k)) →
    ∃ x, exec j u = .next x ∧ x.reg .r7 = s.reg .r7 ∧ x.psw = s.psw ∧ x.reg .r6 = s.reg .r6

/-! ## Single operand -/

/-- R265, R267, R268, R269: COM, INC, DEC, NEG and their byte forms. -/
def Obligations.ComplementIncrementDecrementNegate : Prop :=
  StoresResult (fun w o => sized w (.comb o) (.com o)) 0o051 (fun w d _ => ~~~d &&& maskOf w)
    (fun w _ r _ => nz w r (some false) (some true)) ∧
  StoresResult (fun w o => sized w (.incb o) (.inc o)) 0o052 (fun w d _ => (d + 1) &&& maskOf w)
    (fun w d r _ => nz w r (some (decide (d = signOf w - 1))) none) ∧
  StoresResult (fun w o => sized w (.decb o) (.dec o)) 0o053 (fun w d _ => (d - 1) &&& maskOf w)
    (fun w d r _ => nz w r (some (decide (d = signOf w))) none) ∧
  StoresResult (fun w o => sized w (.negb o) (.neg o)) 0o054 (fun w d _ => -d &&& maskOf w)
    (fun w _ r _ => nz w r (some (decide (r = signOf w))) (some (decide (r ≠ 0))))

/-- R270: ADC and ADCB, with the C held before. -/
def Obligations.AddCarry : Prop :=
  StoresResult (fun w o => sized w (.adcb o) (.adc o)) 0o055
    (fun w d p => (d + if p.getLsbD 0 then 1 else 0) &&& maskOf w)
    (fun w d r p => nz w r (some (decide (d = signOf w - 1 ∧ p.getLsbD 0 = true)))
      (some (decide (d = maskOf w ∧ p.getLsbD 0 = true))))

/-- R271: SBC and SBCB; V is some bit, about which nothing is said, when d is the most negative number and C is clear,
and that one case draws it. -/
def Obligations.SubtractCarry : Prop :=
  ∀ (w : Width) (o : Specifier),
    let i : Instr := sized w (.sbcb o) (.sbc o)
    decodeWord (singleCode w 0o056 o) = .ok i ∧
    ∀ s : State, specReady s o w = true →
      let x := readSpec s o w
      let c := s.psw.getLsbD 0
      let r := (x.value - if c then 1 else 0) &&& maskOf w
      let t := afterWriteOp x.after x.op w r
      (¬ (x.value = signOf w ∧ c = false) →
        exec i s = .next (t.setFlags
          (nz w r (some (decide (x.value = signOf w ∧ c = true))) (some (decide (x.value = 0 ∧ c = true)))))) ∧
      (x.value = signOf w ∧ c = false →
        ∃ v : Bool, exec i s = .next ({ t with draws := t.draws + 1 }.setFlags (nz w r (some v) (some false))))

/-- R272 to R275: the rotates and shifts and their byte forms; C is the bit shifted out, V is N xor C. -/
def Obligations.RotatesAndShifts : Prop :=
  let flags (w : Width) (r : Word) (c : Bool) : Pattern := nz w r (some (msbOf w r ^^ c)) (some c)
  StoresResult (fun w o => sized w (.rorb o) (.ror o)) 0o060
    (fun w d p => (if p.getLsbD 0 then signOf w else 0) ||| d >>> 1) (fun w d r _ => flags w r (d.getLsbD 0)) ∧
  StoresResult (fun w o => sized w (.rolb o) (.rol o)) 0o061
    (fun w d p => (d <<< 1 &&& maskOf w) ||| if p.getLsbD 0 then 1 else 0) (fun w d r _ => flags w r (msbOf w d)) ∧
  StoresResult (fun w o => sized w (.asrb o) (.asr o)) 0o062
    (fun w d _ => d >>> 1 ||| (d &&& signOf w)) (fun w d r _ => flags w r (d.getLsbD 0)) ∧
  StoresResult (fun w o => sized w (.aslb o) (.asl o)) 0o063
    (fun w d _ => d <<< 1 &&& maskOf w) (fun w d r _ => flags w r (msbOf w d))

/-- R264: CLR and CLRB write 0 without reading the destination. R263: SXT writes all ones or 0 by N. -/
def Obligations.ClearAndSignExtend : Prop :=
  (∀ (w : Width) (o : Specifier),
    let i : Instr := sized w (.clrb o) (.clr o)
    decodeWord (singleCode w 0o050 o) = .ok i ∧
    ∀ s : State, specReady s o w = true →
      exec i s = .next ((afterWriteOp (afterResolve s o w) (operandOf s o w) w 0).setFlags
        ⟨some false, some true, some false, some false⟩)) ∧
  (∀ o : Specifier, decodeWord (0o0067#10 ++ o.bits) = .ok (.sxt o) ∧
    ∀ s : State, specReady s o .word = true →
      exec (.sxt o) s = .next ((afterWriteOp (afterResolve s o .word) (operandOf s o .word) .word
        (if s.psw.getLsbD 3 then 0o177777 else 0)).setFlags ⟨none, some (decide (s.psw.getLsbD 3 = false)), some false, none⟩))

/-- R266: TST and TSTB set the flags from the value and write nothing. R262: SWAB exchanges the bytes; N and Z come from
the new low byte. -/
def Obligations.TestAndSwapBytes : Prop :=
  (∀ (w : Width) (o : Specifier),
    let i : Instr := sized w (.tstb o) (.tst o)
    decodeWord (singleCode w 0o057 o) = .ok i ∧
    ∀ s : State, specReady s o w = true →
      exec i s = .next ((readSpec s o w).after.setFlags (nz w (readSpec s o w).value (some false) (some false)))) ∧
  (∀ o : Specifier, decodeWord (0o0003#10 ++ o.bits) = .ok (.swab o) ∧
    ∀ s : State, specReady s o .word = true →
      let x := readSpec s o .word
      let r : Word := BitVec.ofNat 16 (x.value.toNat % 256 * 256 + x.value.toNat / 256)
      exec (.swab o) s = .next ((afterWriteOp x.after x.op .word r).setFlags
        ⟨some (r.getLsbD 7), some (decide (r.toNat % 256 = 0)), some false, some false⟩))

/-- R261, R178: JMP sets the PC to the effective address, an odd one too; mode 0 stops with `IllegalJumpMode` before any
access, in JSR too (R380). -/
def Obligations.JumpAndItsIllegalMode : Prop :=
  ∀ (s : State) (o : Specifier) (r : Reg),
    decodeWord (0o0001#10 ++ o.bits) = .ok (.jmp o) ∧
    (o.mode ≠ .register → resolvable s o = true →
      exec (.jmp o) s = .next ((afterResolve s o .word).setReg .r7 (effAddr s o .word))) ∧
    (o.mode = .register →
      exec (.jmp o) s = .next (s.stop (.fault (.illegalJumpMode o))) ∧
      exec (.jsr r o) s = .next (s.stop (.fault (.illegalJumpMode o))))

/-! ## Register and operand -/

/-- R310: MUL, the source before the register, the exact product in the pair or its low word in an odd register. -/
def Obligations.Multiply : Prop :=
  ∀ (r : Reg) (o : Specifier), decodeWord (0o070#7 ++ r.bits ++ o.bits) = .ok (.mul r o) ∧
    ∀ s : State, specReady s o .word = true →
      let x := readSpec s o .word
      let p : Int := x.value.toInt * (x.after.reg r).toInt
      let q : Pattern := ⟨some (decide (p < 0)), some (decide (p = 0)), some false, some (decide (p < -32768 ∨ 32768 ≤ p))⟩
      (r.isOdd = true → exec (.mul r o) s = .next ((x.after.setReg r (BitVec.ofInt 16 p)).setFlags q)) ∧
      (r.isOdd = false → exec (.mul r o) s = .next
        (((x.after.setReg r (BitVec.ofInt 16 (p / 65536))).setReg (oddOf r) (BitVec.ofInt 16 p)).setFlags q))

/-- R311: DIV. An odd register stops before any access. A divisor of 0 and a quotient outside the word leave the
registers, with V = 1, C marking the zero divisor, and N and Z some bits about which nothing is said. A quotient in
range is stored with its remainder: the one pair with the dividend = quotient * divisor + remainder, the remainder
smaller than the divisor and of the dividend's sign. The quotient -32768 has one of the two outcomes. -/
def Obligations.Divide : Prop :=
  ∀ (r : Reg) (o : Specifier), decodeWord (0o071#7 ++ r.bits ++ o.bits) = .ok (.div r o) ∧
    ∀ s : State,
      (r.isOdd = true →
        exec (.div r o) s = .next (s.stop (.fault (.undefinedOperation (0o071#7 ++ r.bits ++ o.bits))))) ∧
      (r.isOdd = false → specReady s o .word = true →
        let x := readSpec s o .word
        let n : Int := ((x.after.reg r ++ x.after.reg (oddOf r) : BitVec 32)).toInt
        let d : Int := x.value.toInt
        let overflow (k : Nat) (c : Bool) : Prop := ∃ nf zf : Bool,
          exec (.div r o) s = .next ({ x.after with draws := x.after.draws + k }.setFlags ⟨some nf, some zf, some true, some c⟩)
        let stored (k : Nat) (q m : Int) : Prop :=
          exec (.div r o) s = .next
            (((({ x.after with draws := x.after.draws + k } : State).setReg r (BitVec.ofInt 16 q)).setReg (oddOf r)
              (BitVec.ofInt 16 m)).setFlags ⟨some (decide (q < 0)), some (decide (q = 0)), some false, some false⟩)
        (d = 0 → overflow 2 true) ∧
        (∀ q m : Int, d ≠ 0 → n = q * d + m → |m| < |d| → (0 ≤ n → 0 ≤ m) → (n ≤ 0 → m ≤ 0) →
          (-32768 < q ∧ q ≤ 32767 → stored 0 q m) ∧
          (q < -32768 ∨ 32767 < q → overflow 2 false) ∧
          (q = -32768 → stored 1 q m ∨ overflow 3 false)))

/-- R312: what `ShiftN` computes at once, for every width and count: the shifted pattern, C the last bit shifted out, V
whether the sign differed from the original at some step of a left shift. -/
def Obligations.ShiftsStepByStep : Prop :=
  ∀ (b : Nat) (d : BitVec b) (n : Nat), 0 < b →
    (let x := shiftN d (n : Int)
     0 < n → x.r = d <<< n ∧ x.c = (decide (n ≤ b) && d.getLsbD (b - n)) ∧
       (x.v = true ↔ ∃ k, k ≤ n ∧ (d <<< k).msb ≠ d.msb)) ∧
    (let x := shiftN d (-(n : Int))
     0 < n → x.r = d.sshiftRight n ∧ x.c = (if n ≤ b then d.getLsbD (n - 1) else d.msb) ∧ x.v = false) ∧
    shiftN d 0 = ⟨d, false, false⟩

/-- R313, R314, R118: ASH and ASHC shift the register, or the pair, or an odd register taken twice, by the signed low 6
bits of the source, and set the flags from the result. -/
def Obligations.ArithmeticShifts : Prop :=
  ∀ (r : Reg) (o : Specifier), decodeWord (0o072#7 ++ r.bits ++ o.bits) = .ok (.ash r o) ∧
    decodeWord (0o073#7 ++ r.bits ++ o.bits) = .ok (.ashc r o) ∧
    ∀ s : State, specReady s o .word = true →
      let x := readSpec s o .word
      let cnt : Int := if x.value.toNat % 64 < 32 then x.value.toNat % 64 else x.value.toNat % 64 - 64
      (let y := shiftN (x.after.reg r) cnt
       exec (.ash r o) s = .next ((x.after.setReg r y.r).setFlags
        ⟨some y.r.msb, some (decide (y.r = 0)), some y.v, some y.c⟩)) ∧
      (r.isOdd = true →
        let y := shiftN (x.after.reg r ++ x.after.reg r : BitVec 32) cnt
        exec (.ashc r o) s = .next ((x.after.setReg r (y.r.extractLsb' 0 16)).setFlags
          ⟨some y.r.msb, some (decide (y.r = 0)), some y.v, some y.c⟩)) ∧
      (r.isOdd = false →
        let y := shiftN (x.after.reg r ++ x.after.reg (oddOf r) : BitVec 32) cnt
        exec (.ashc r o) s = .next (((x.after.setReg r (y.r.extractLsb' 16 16)).setReg (oddOf r)
          (y.r.extractLsb' 0 16)).setFlags ⟨some y.r.msb, some (decide (y.r = 0)), some y.v, some y.c⟩))

/-- R326: XOR takes the register's value before the destination is resolved. -/
def Obligations.ExclusiveOr : Prop :=
  ∀ (r : Reg) (o : Specifier), decodeWord (0o074#7 ++ r.bits ++ o.bits) = .ok (.xor r o) ∧
    ∀ s : State, specReady s o .word = true →
      let x := readSpec s o .word
      let v := s.reg r ^^^ x.value
      exec (.xor r o) s = .next ((afterWriteOp x.after x.op .word v).setFlags (nz .word v (some false) none))

/-- R327: SOB subtracts one and branches backward by twice the unsigned offset while the register is not zero; no flag
changes. With R7 the branch starts from the decremented PC. The rule's exception for an unwritten register is not taken
(log 1, the model's choice). -/
def Obligations.SubtractOneAndBranch : Prop :=
  ∀ (r : Reg) (nn : BitVec 6), decodeWord (0o077#7 ++ r.bits ++ nn) = .ok (.sob r nn) ∧
    ∀ s : State,
      let t := s.setReg r (s.reg r - 1)
      exec (.sob r nn) s = .next
        (if (s.reg r).toNat = 1 then t else t.setReg .r7 (t.reg .r7 - BitVec.ofNat 16 (2 * nn.toNat)))

/-! ## Double operand -/

/-- R341, R174: MOV and MOVB write the source without reading the destination; MOVB to a register sign-extends. -/
def Obligations.Move : Prop :=
  ∀ src dst : Specifier,
    decodeWord (doubleCode .word 1 src dst) = .ok (.mov src dst) ∧
    decodeWord (doubleCode .byte 1 src dst) = .ok (.movb src dst) ∧
    (∀ s : State, specReady s src .word = true → specReady (readSpec s src .word).after dst .word = true →
      let x := readSpec s src .word
      exec (.mov src dst) s = .next ((afterWriteOp (afterResolve x.after dst .word) (operandOf x.after dst .word) .word
        x.value).setFlags (nz .word x.value (some false) none))) ∧
    (∀ s : State, specReady s src .byte = true → specReady (readSpec s src .byte).after dst .byte = true →
      let x := readSpec s src .byte
      let q := nz .byte x.value (some false) none
      (dst.mode = .register →
        exec (.movb src dst) s = .next ((x.after.setReg dst.reg
          (if x.value.toNat < 128 then x.value else x.value + 0o177400)).setFlags q)) ∧
      (dst.mode ≠ .register →
        exec (.movb src dst) s = .next ((afterWrite (afterResolve x.after dst .byte) .byte
          (effAddr x.after dst .byte) x.value).setFlags q)))

/-- R342 to R347: CMP and BIT and their byte forms set the flags and write nothing; BIC and BIS and their byte forms;
ADD and SUB, word only, with bit 15 part of SUB's opcode: V is the signed overflow and C the carry or the borrow. -/
def Obligations.DoubleOperandResults : Prop :=
  ComparesOnly (fun w a b => sized w (.cmpb a b) (.cmp a b)) 2 (fun w a d =>
    let r := (a - d) &&& maskOf w
    nz w r (some (decide ((a ^^^ d) &&& (a ^^^ r) &&& signOf w ≠ 0))) (some (decide (a.toNat < d.toNat)))) ∧
  ComparesOnly (fun w a b => sized w (.bitb a b) (.bit a b)) 3 (fun w a d => nz w (a &&& d) (some false) none) ∧
  CombinesResult .bic .word .word 4 (fun a d => ~~~a &&& d) (fun _ _ r => nz .word r (some false) none) ∧
  CombinesResult .bicb .byte .byte 4 (fun a d => ~~~a &&& d &&& 0o377) (fun _ _ r => nz .byte r (some false) none) ∧
  CombinesResult .bis .word .word 5 (fun a d => a ||| d) (fun _ _ r => nz .word r (some false) none) ∧
  CombinesResult .bisb .byte .byte 5 (fun a d => a ||| d) (fun _ _ r => nz .byte r (some false) none) ∧
  CombinesResult .add .word .word 6 (fun a d => a + d) (fun a d r => nz .word r
    (some (decide (r.toInt ≠ a.toInt + d.toInt))) (some (decide (2 ^ 16 ≤ a.toNat + d.toNat)))) ∧
  CombinesResult .sub .word .byte 6 (fun a d => d - a) (fun a d r => nz .word r
    (some (decide (r.toInt ≠ d.toInt - a.toInt))) (some (decide (d.toNat < a.toNat))))

/-- R217: after CMP or CMPB of two operands the branch conditions are the comparisons of source with destination. -/
def Obligations.BranchesAfterCompareAreComparisons : Prop :=
  ∀ (w : Width) (src dst : Specifier) (s : State), specReady s src w = true →
    specReady (readSpec s src w).after dst w = true →
    let a := (readSpec s src w).value
    let d := (readSpec (readSpec s src w).after dst w).value
    ∃ t, exec (sized w (.cmpb src dst) (.cmp src dst)) s = .next t ∧
      condEq t.psw = decide (a = d) ∧ condNe t.psw = decide (a ≠ d) ∧
      condGt t.psw = decide (signedAt w d < signedAt w a) ∧ condGe t.psw = decide (signedAt w d ≤ signedAt w a) ∧
      condLt t.psw = decide (signedAt w a < signedAt w d) ∧ condLe t.psw = decide (signedAt w a ≤ signedAt w d) ∧
      condHigher t.psw = decide (d.toNat < a.toNat) ∧ condCarryClear t.psw = decide (d.toNat ≤ a.toNat) ∧
      condCarrySet t.psw = decide (a.toNat < d.toNat) ∧ condLowerSame t.psw = decide (a.toNat ≤ d.toNat)

/-- R83, R175: MOV, CLR and SXT (and the byte forms), in every mode whose effective address is routed, call the writer
once and no reader after the destination is resolved, and leave the array alone; MOV's source may be any operand. -/
def Obligations.WriteOnlyDestinationsAreNotRead : Prop :=
  ∀ (s : State) (dst : Specifier), dst.mode ≠ .register →
    let calledOnce (i : Instr) (x : State) (w : Width) (v : Word) : Prop :=
      let u := afterResolve x dst w
      let a := effAddr x dst w
      resolvable x dst = true → aligned w a = true → u.routedWrite a = true →
        ∃ t, exec i s = .next t ∧ t.mem = s.mem ∧ t.draws = u.draws ∧ t.devCalls = ⟨.write, a, w, v⟩ :: u.devCalls
    calledOnce (.clr dst) s .word 0 ∧ calledOnce (.clrb dst) s .byte 0 ∧
    calledOnce (.sxt dst) s .word (if s.psw.getLsbD 3 then 0o177777 else 0) ∧
    (∀ src : Specifier,
      (specReady s src .word = true →
        calledOnce (.mov src dst) (readSpec s src .word).after .word (readSpec s src .word).value) ∧
      (specReady s src .byte = true →
        calledOnce (.movb src dst) (readSpec s src .byte).after .byte (readSpec s src .byte).value))

/-! ## Subroutines -/

/-- R380: JSR resolves its target, pushes the link register, loads it with the PC and jumps. -/
def Obligations.JumpToSubroutine : Prop :=
  ∀ (r : Reg) (o : Specifier), decodeWord (0o004#7 ++ r.bits ++ o.bits) = .ok (.jsr r o) ∧
    ∀ s : State, o.mode ≠ .register → resolvable s o = true →
      let u := afterResolve s o .word
      (isOddAddr (u.reg .r6) = false →
        let x := afterWrite (u.setReg .r6 (u.reg .r6 - 2)) .word (u.reg .r6 - 2) (u.reg r)
        exec (.jsr r o) s = .next ((x.setReg r (u.reg .r7)).setReg .r7 (effAddr s o .word))) ∧
      (isOddAddr (u.reg .r6) = true →
        exec (.jsr r o) s =
          .next ((u.setReg .r6 (u.reg .r6 - 2)).stop (.fault (.busFault .oddAddress (u.reg .r6 - 2)))))

/-- R381: RTS moves the link register to the PC and pops the link register; with SP odd the PC is already written.
The rule's exception for an unwritten register is not taken (log 1, the model's choice). -/
def Obligations.ReturnFromSubroutine : Prop :=
  ∀ r : Reg, decodeWord (0o00020#13 ++ r.bits) = .ok (.rts r) ∧
    ∀ s : State,
      let u := s.setReg .r7 (s.reg r)
      (isOddAddr (s.reg .r6) = false → busFree s = true →
        exec (.rts r) s = .next (((afterRead u .word (s.reg .r6)).setReg .r6 (s.reg .r6 + 2)).setReg r
          (busValue s .word (s.reg .r6)))) ∧
      (isOddAddr (s.reg .r6) = true →
        exec (.rts r) s = .next (u.stop (.fault (.busFault .oddAddress (s.reg .r6)))))

/-- R382: JSR, a subroutine that leaves SP, the link register and the stacked word as it found them, then RTS with the
same link register: the PC is back after the JSR and its extension word, SP and the link register have their old values. -/
def Obligations.CallThenReturnRestores : Prop :=
  ∀ (s t u : State) (r : Reg) (o : Specifier), r ≠ .r6 → r ≠ .r7 → o.mode ≠ .register →
    r ∉ steppedBy o → .r6 ∉ steppedBy o → (o.reg = .r7 → o.mode ≠ .autoDec ∧ o.mode ≠ .autoDecDeferred) →
    s.mem.wf = true → s.devWrite = [] → resolvable s o = true →
    isOddAddr (s.reg .r6) = false → exec (.jsr r o) s = .next t → u.devRead = [] → busFree u = true →
    u.reg .r6 = t.reg .r6 → u.reg r = t.reg r →
    u.byteAt (t.reg .r6) = t.byteAt (t.reg .r6) → u.byteAt (t.reg .r6 + 1) = t.byteAt (t.reg .r6 + 1) →
    ∃ x, exec (.rts r) u = .next x ∧ x.reg .r7 = s.reg .r7 + BitVec.ofNat 16 (2 * o.extensionWords) ∧
      x.reg .r6 = s.reg .r6 ∧ x.reg r = s.reg r

/-! ## Frames -/

/-- TST, CMP, BIT and their byte forms: no byte of memory, no register but those their modes step and the PC, no PSW bit
above the flags, and BIT not C. -/
def Obligations.FrameOfReadOnlyInstructions : Prop :=
  ∀ (s t : State) (w : Width) (src dst : Specifier) (i : Instr) (l : List Reg),
    (i = sized w (.tstb dst) (.tst dst) ∧ l = .r7 :: steppedBy dst) ∨
    (i = sized w (.cmpb src dst) (.cmp src dst) ∧ l = .r7 :: steppedBy src ++ steppedBy dst) ∨
    (i = sized w (.bitb src dst) (.bit src dst) ∧ l = .r7 :: steppedBy src ++ steppedBy dst) →
    exec i s = .next t →
      keepsRegs s t l ∧ keepsBytes s t (fun _ => False) ∧ keepsHigh s t ∧ keepsLaunch s t ∧ keepsRun s t ∧
      (i = sized w (.bitb src dst) (.bit src dst) → t.psw.getLsbD 0 = s.psw.getLsbD 0)

/-- The single-operand instructions that store: no register but the destination, those its mode steps and the PC; no
byte but those at the destination's address; no PSW bit above the flags; C kept by INC, DEC and SXT, N by SXT. -/
def Obligations.FrameOfSingleOperandStores : Prop :=
  ∀ (s t : State) (o : Specifier) (f : Specifier → Instr) (w : Width), (f, w) ∈ singleStores → exec (f o) s = .next t →
    keepsRegs s t (.r7 :: steppedBy o ++ namedBy o) ∧ keepsBytes s t (storedBy s o w) ∧ keepsHigh s t ∧
    keepsLaunch s t ∧ keepsRun s t ∧
    (f o ∈ [.inc o, .incb o, .dec o, .decb o, .sxt o] → t.psw.getLsbD 0 = s.psw.getLsbD 0) ∧
    (f o = .sxt o → t.psw.getLsbD 3 = s.psw.getLsbD 3)

/-- The SSDD instructions that store, and XOR: no register but the destination, those the modes step and the PC; no byte
but those at the destination's address, resolved after the source; C kept by all but ADD and SUB. -/
def Obligations.FrameOfDoubleOperandStores : Prop :=
  (∀ (s t : State) (src dst : Specifier) (f : Specifier → Specifier → Instr) (w : Width), (f, w) ∈ doubleStores →
    exec (f src dst) s = .next t →
      keepsRegs s t (.r7 :: steppedBy src ++ steppedBy dst ++ namedBy dst) ∧
      keepsBytes s t (storedBySecond s src dst w) ∧ keepsHigh s t ∧ keepsLaunch s t ∧ keepsRun s t ∧
      (f src dst ≠ .add src dst → f src dst ≠ .sub src dst → t.psw.getLsbD 0 = s.psw.getLsbD 0)) ∧
  (∀ (s t : State) (r : Reg) (o : Specifier), exec (.xor r o) s = .next t →
    keepsRegs s t (.r7 :: steppedBy o ++ namedBy o) ∧ keepsBytes s t (storedBy s o .word) ∧ keepsHigh s t ∧
    keepsLaunch s t ∧ keepsRun s t ∧ t.psw.getLsbD 0 = s.psw.getLsbD 0)

/-- MUL, DIV, ASH, ASHC and SOB: no byte of memory; no register but R (and R|1 of an even R, ASH and SOB excepted),
those the mode steps and the PC; no PSW bit above the flags, SOB none at all. -/
def Obligations.FrameOfRegisterResults : Prop :=
  ∀ (s t : State) (r : Reg) (o : Specifier) (nn : BitVec 6),
    (∀ i ∈ [Instr.mul r o, .div r o, .ashc r o], exec i s = .next t →
      keepsRegs s t (.r7 :: r :: oddOf r :: steppedBy o) ∧ keepsBytes s t (fun _ => False) ∧ keepsHigh s t ∧
      keepsLaunch s t ∧ keepsRun s t) ∧
    (exec (.ash r o) s = .next t →
      keepsRegs s t (.r7 :: r :: steppedBy o) ∧ keepsBytes s t (fun _ => False) ∧ keepsHigh s t ∧ keepsLaunch s t ∧
      keepsRun s t) ∧
    (exec (.sob r nn) s = .next t →
      keepsRegs s t [.r7, r] ∧ keepsBytes s t (fun _ => False) ∧ t.psw = s.psw ∧ keepsLaunch s t ∧ keepsRun s t)

/-- The branches, JMP, JSR, RTS, the traps and their returns: registers, memory and PSW beyond what their rules name. The
stored bytes are the stack words at the SP the instruction has when it pushes. -/
def Obligations.FrameOfControlTransfers : Prop :=
  ∀ (s t : State) (r : Reg) (o : Specifier) (off : BitVec 8),
    (∀ i ∈ branches off, exec i s = .next t →
      keepsRegs s t [.r7] ∧ keepsBytes s t (fun _ => False) ∧ t.psw = s.psw ∧ keepsLaunch s t ∧ keepsRun s t) ∧
    (exec (.jmp o) s = .next t →
      keepsRegs s t (.r7 :: steppedBy o) ∧ keepsBytes s t (fun _ => False) ∧ t.psw = s.psw ∧ keepsLaunch s t ∧
      keepsRun s t) ∧
    (exec (.jsr r o) s = .next t →
      keepsRegs s t (.r7 :: .r6 :: r :: steppedBy o) ∧
      keepsBytes s t (fun c => ∃ a u, resolveJump o s = .ok a u ∧ c ∈ bytesAt .word (u.reg .r6 - 2)) ∧
      t.psw = s.psw ∧ keepsLaunch s t ∧ keepsRun s t) ∧
    (exec (.rts r) s = .next t →
      keepsRegs s t [.r7, .r6, r] ∧ keepsBytes s t (fun _ => False) ∧ t.psw = s.psw ∧ keepsLaunch s t ∧ keepsRun s t) ∧
    (∀ i ∈ [Instr.bpt, .iot], exec i s = .next t →
      keepsRegs s t [.r7, .r6] ∧
      keepsBytes s t (fun c => c ∈ bytesAt .word (s.reg .r6 - 2) ++ bytesAt .word (s.reg .r6 - 4)) ∧
      keepsLaunch s t ∧ keepsRun s t) ∧
    (∀ i ∈ [Instr.rti, .rtt], exec i s = .next t →
      keepsRegs s t [.r7, .r6] ∧ keepsBytes s t (fun _ => False) ∧ keepsLaunch s t ∧ keepsRun s t)

/-! ## The whole machine -/

/-- R42: no instruction but the traps and their returns writes PSW bits 15-4. -/
def Obligations.OnlyTrapsAndReturnsWritePswHighBits : Prop :=
  ∀ (i : Instr) (s t : State), exec i s = .next t → loadsPsw i = false → keepsHigh s t

/-- R43, R44, R45, R46, R445: mode, priority, T and unnamed bits have no effect: with other bits 15-4 every instruction
but BPT and IOT, which push the PSW, does the same, but for those bits of the PSW itself. -/
def Obligations.PswHighBitsHaveNoEffect : Prop :=
  ∀ (i : Instr) (s t : State) (h : BitVec 12), i ≠ .bpt → i ≠ .iot → exec i s = .next t →
    ∃ u, exec i (withHigh h s) = .next u ∧ withHigh 0 u = withHigh 0 t

/-- R53, R6: no step changes the handler tables or the launch parameters. -/
def Obligations.StepsKeepTheLaunch : Prop :=
  ∀ s t : State, step s = .next t → t.devRead = s.devRead ∧ t.devWrite = s.devWrite ∧ t.params = s.params

/-- R400, R402, R409: when the word at the PC decodes, the step is the instruction at the state after the fetch, then
the progress check; the word is the two bytes at the PC when no reader is registered there (R96). -/
def Obligations.StepRunsTheDecodedInstruction : Prop :=
  ∀ (s : State) (i : Instr), launchLegal s = true → faultStopped s = false → fetchReady s = true →
    let b := beginCycle s
    let a := s.reg .r7
    decodeWord (fetchValue b) = .ok i →
      step s = (match exec i (afterFetch b) with
        | .next t =>
          .next (if t.execState = .ready ∧ t.params.noProgressCheck = true ∧ t.reg .r7 = a then
            { t with execState := .stopped (.fault (.noProgress a)), runFlag := false } else t)
        | .fault f => .fault f
        | .refused r => .refused r) ∧
      (s.routedRead a = false → fetchValue b = s.byteAt (a + 1) ++ s.byteAt a ∧ afterFetch b = b.setReg .r7 (a + 2))

/-- R408, R401: a word no family claims stops the core with the PC advanced and nothing else changed; an odd PC stops it
with the PC unchanged. -/
def Obligations.UnclaimedWordsAndOddPcsStop : Prop :=
  ∀ s : State, launchLegal s = true → faultStopped s = false → busFree s = true →
    (isOddAddr (s.reg .r7) = false → classify (fetchValue (beginCycle s)) = none →
      step s = .next { afterFetch (beginCycle s) with
        execState := .stopped (.fault (.unknownOpcode (fetchValue (beginCycle s)) (s.reg .r7))), runFlag := false }) ∧
    (isOddAddr (s.reg .r7) = true →
      step s = .next { beginCycle s with
        execState := .stopped (.fault (.busFault .oddAddress (s.reg .r7))), runFlag := false })

/-- R410, R411, R412: a fault stop is sticky and `set_run(true)` does not leave it; a HALT or WAIT stop is resumed by the
next cycle exactly as from Ready, and by `set_run(true)`. R414: a `set_run(false)` made while an instruction runs ends the
run after it, with that instruction complete and the core still Ready. -/
def Obligations.FaultStopsAreStickyOthersResume : Prop :=
  ∀ s : State, launchLegal s = true →
    (∀ f, s.execState = .stopped (.fault f) → step s = .next s ∧ setRun true s = { s with runFlag := true } ∧
      ∀ n, runLimit n s = .next s) ∧
    (s.execState = .stopped .halt ∨ s.execState = .stopped .wait →
      step s = step { s with execState := .ready } ∧
      setRun true s = { s with execState := .ready, runFlag := true }) ∧
    (∀ (t : State) (calls : List (List Bool)), getRun s = true → step s = .next t → continues t = true →
      runWith ([] :: [false] :: calls) s = .next { t with runFlag := false })

/-- R471: `load_words` writes each word little-endian from the base, sets the PC and writes no other register and no PSW
bit; an odd base or a load past 2^16 is refused. -/
def Obligations.LoaderPlacesTheImage : Prop :=
  ∀ (s : State) (ws : List Word) (base : Word), hostMayWrite s = true →
    (isOddAddr base = true ∨ 65536 < base.toNat + 2 * ws.length → loadWords ws base s = .refused .illegalLoad) ∧
    (isOddAddr base = false → base.toNat + 2 * ws.length ≤ 65536 → busFree s = true → s.devWrite = [] →
      s.mem.wf = true →
      ∃ t, loadWords ws base s = .next t ∧ t.reg .r7 = base ∧ t.written .r7 = true ∧ keepsRegs s t [.r7] ∧
        t.psw = s.psw ∧ t.mem.wf = true ∧
        (∀ (k : Nat) (h : k < ws.length), t.arrayRead .word (base + BitVec.ofNat 16 (2 * k)) = ws[k]) ∧
        (∀ c : Word, c.toNat < base.toNat ∨ base.toNat + 2 * ws.length ≤ c.toNat → t.byteAt c = s.byteAt c))
end

