-- ==== Sys2Proof/Laws/State.lean ====
section
/-! SUPPORT. One lemma for each field and each update of the state, so that no later proof unfolds a record update. -/

namespace Sys2Proof.Machine

open Sys2Proof

/-! ### setReg -/

@[simp] theorem setReg_psw (s : State) (r : Reg) (v : Word) : (s.setReg r v).psw = s.psw := rfl
@[simp] theorem setReg_mem (s : State) (r : Reg) (v : Word) : (s.setReg r v).mem = s.mem := rfl
@[simp] theorem setReg_devRead (s : State) (r : Reg) (v : Word) : (s.setReg r v).devRead = s.devRead := rfl
@[simp] theorem setReg_devWrite (s : State) (r : Reg) (v : Word) : (s.setReg r v).devWrite = s.devWrite := rfl
@[simp] theorem setReg_busLock (s : State) (r : Reg) (v : Word) : (s.setReg r v).busLock = s.busLock := rfl
@[simp] theorem setReg_runFlag (s : State) (r : Reg) (v : Word) : (s.setReg r v).runFlag = s.runFlag := rfl
@[simp] theorem setReg_execState (s : State) (r : Reg) (v : Word) : (s.setReg r v).execState = s.execState := rfl
@[simp] theorem setReg_params (s : State) (r : Reg) (v : Word) : (s.setReg r v).params = s.params := rfl
@[simp] theorem setReg_started (s : State) (r : Reg) (v : Word) : (s.setReg r v).started = s.started := rfl
@[simp] theorem setReg_draws (s : State) (r : Reg) (v : Word) : (s.setReg r v).draws = s.draws := rfl
@[simp] theorem setReg_devCalls (s : State) (r : Reg) (v : Word) : (s.setReg r v).devCalls = s.devCalls := rfl

/-! ### setByte -/

@[simp] theorem setByte_regs (s : State) (a : Word) (b : Byte) : (s.setByte a b).regs = s.regs := rfl
@[simp] theorem setByte_psw (s : State) (a : Word) (b : Byte) : (s.setByte a b).psw = s.psw := rfl
@[simp] theorem setByte_devRead (s : State) (a : Word) (b : Byte) : (s.setByte a b).devRead = s.devRead := rfl
@[simp] theorem setByte_devWrite (s : State) (a : Word) (b : Byte) : (s.setByte a b).devWrite = s.devWrite := rfl
@[simp] theorem setByte_busLock (s : State) (a : Word) (b : Byte) : (s.setByte a b).busLock = s.busLock := rfl
@[simp] theorem setByte_runFlag (s : State) (a : Word) (b : Byte) : (s.setByte a b).runFlag = s.runFlag := rfl
@[simp] theorem setByte_execState (s : State) (a : Word) (b : Byte) : (s.setByte a b).execState = s.execState := rfl
@[simp] theorem setByte_params (s : State) (a : Word) (b : Byte) : (s.setByte a b).params = s.params := rfl
@[simp] theorem setByte_started (s : State) (a : Word) (b : Byte) : (s.setByte a b).started = s.started := rfl
@[simp] theorem setByte_draws (s : State) (a : Word) (b : Byte) : (s.setByte a b).draws = s.draws := rfl
@[simp] theorem setByte_devCalls (s : State) (a : Word) (b : Byte) : (s.setByte a b).devCalls = s.devCalls := rfl

/-! ### setFlags -/

@[simp] theorem setFlags_regs (s : State) (q : Pattern) : (s.setFlags q).regs = s.regs := rfl
@[simp] theorem setFlags_mem (s : State) (q : Pattern) : (s.setFlags q).mem = s.mem := rfl
@[simp] theorem setFlags_devRead (s : State) (q : Pattern) : (s.setFlags q).devRead = s.devRead := rfl
@[simp] theorem setFlags_devWrite (s : State) (q : Pattern) : (s.setFlags q).devWrite = s.devWrite := rfl
@[simp] theorem setFlags_busLock (s : State) (q : Pattern) : (s.setFlags q).busLock = s.busLock := rfl
@[simp] theorem setFlags_runFlag (s : State) (q : Pattern) : (s.setFlags q).runFlag = s.runFlag := rfl
@[simp] theorem setFlags_execState (s : State) (q : Pattern) : (s.setFlags q).execState = s.execState := rfl
@[simp] theorem setFlags_params (s : State) (q : Pattern) : (s.setFlags q).params = s.params := rfl
@[simp] theorem setFlags_started (s : State) (q : Pattern) : (s.setFlags q).started = s.started := rfl
@[simp] theorem setFlags_draws (s : State) (q : Pattern) : (s.setFlags q).draws = s.draws := rfl
@[simp] theorem setFlags_devCalls (s : State) (q : Pattern) : (s.setFlags q).devCalls = s.devCalls := rfl

/-! ### stop -/

@[simp] theorem stop_regs (s : State) (r : StopReason) : (s.stop r).regs = s.regs := rfl
@[simp] theorem stop_psw (s : State) (r : StopReason) : (s.stop r).psw = s.psw := rfl
@[simp] theorem stop_mem (s : State) (r : StopReason) : (s.stop r).mem = s.mem := rfl
@[simp] theorem stop_devRead (s : State) (r : StopReason) : (s.stop r).devRead = s.devRead := rfl
@[simp] theorem stop_devWrite (s : State) (r : StopReason) : (s.stop r).devWrite = s.devWrite := rfl
@[simp] theorem stop_busLock (s : State) (r : StopReason) : (s.stop r).busLock = s.busLock := rfl
@[simp] theorem stop_params (s : State) (r : StopReason) : (s.stop r).params = s.params := rfl
@[simp] theorem stop_started (s : State) (r : StopReason) : (s.stop r).started = s.started := rfl
@[simp] theorem stop_draws (s : State) (r : StopReason) : (s.stop r).draws = s.draws := rfl
@[simp] theorem stop_devCalls (s : State) (r : StopReason) : (s.stop r).devCalls = s.devCalls := rfl

@[simp] theorem setByte_mem (s : State) (a : Word) (b : Byte) : (s.setByte a b).mem = s.mem.set a.toNat b := rfl
@[simp] theorem setFlags_psw (s : State) (q : Pattern) : (s.setFlags q).psw = applyPattern q s.psw := rfl
@[simp] theorem stop_execState (s : State) (r : StopReason) : (s.stop r).execState = .stopped r := rfl
@[simp] theorem stop_runFlag (s : State) (r : StopReason) : (s.stop r).runFlag = false := rfl

/-! ### Updates that branch: the array write and the bus accesses -/

@[simp] theorem arrayWrite_regs (s : State) (w : Width) (a v : Word) : (s.arrayWrite w a v).regs = s.regs := by
  cases w <;> rfl
@[simp] theorem arrayWrite_psw (s : State) (w : Width) (a v : Word) : (s.arrayWrite w a v).psw = s.psw := by
  cases w <;> rfl
@[simp] theorem arrayWrite_devRead (s : State) (w : Width) (a v : Word) : (s.arrayWrite w a v).devRead = s.devRead := by
  cases w <;> rfl
@[simp] theorem arrayWrite_devWrite (s : State) (w : Width) (a v : Word) : (s.arrayWrite w a v).devWrite = s.devWrite := by
  cases w <;> rfl
@[simp] theorem arrayWrite_busLock (s : State) (w : Width) (a v : Word) : (s.arrayWrite w a v).busLock = s.busLock := by
  cases w <;> rfl
@[simp] theorem arrayWrite_runFlag (s : State) (w : Width) (a v : Word) : (s.arrayWrite w a v).runFlag = s.runFlag := by
  cases w <;> rfl
@[simp] theorem arrayWrite_execState (s : State) (w : Width) (a v : Word) : (s.arrayWrite w a v).execState = s.execState := by
  cases w <;> rfl
@[simp] theorem arrayWrite_params (s : State) (w : Width) (a v : Word) : (s.arrayWrite w a v).params = s.params := by
  cases w <;> rfl
@[simp] theorem arrayWrite_started (s : State) (w : Width) (a v : Word) : (s.arrayWrite w a v).started = s.started := by
  cases w <;> rfl
@[simp] theorem arrayWrite_draws (s : State) (w : Width) (a v : Word) : (s.arrayWrite w a v).draws = s.draws := by
  cases w <;> rfl
@[simp] theorem arrayWrite_devCalls (s : State) (w : Width) (a v : Word) : (s.arrayWrite w a v).devCalls = s.devCalls := by
  cases w <;> rfl

@[simp] theorem afterRead_regs (s : State) (w : Width) (a : Word) : (afterRead s w a).regs = s.regs := by
  unfold afterRead; split <;> rfl
@[simp] theorem afterRead_psw (s : State) (w : Width) (a : Word) : (afterRead s w a).psw = s.psw := by
  unfold afterRead; split <;> rfl
@[simp] theorem afterRead_mem (s : State) (w : Width) (a : Word) : (afterRead s w a).mem = s.mem := by
  unfold afterRead; split <;> rfl
@[simp] theorem afterRead_devRead (s : State) (w : Width) (a : Word) : (afterRead s w a).devRead = s.devRead := by
  unfold afterRead; split <;> rfl
@[simp] theorem afterRead_devWrite (s : State) (w : Width) (a : Word) : (afterRead s w a).devWrite = s.devWrite := by
  unfold afterRead; split <;> rfl
@[simp] theorem afterRead_busLock (s : State) (w : Width) (a : Word) : (afterRead s w a).busLock = s.busLock := by
  unfold afterRead; split <;> rfl
@[simp] theorem afterRead_runFlag (s : State) (w : Width) (a : Word) : (afterRead s w a).runFlag = s.runFlag := by
  unfold afterRead; split <;> rfl
@[simp] theorem afterRead_execState (s : State) (w : Width) (a : Word) : (afterRead s w a).execState = s.execState := by
  unfold afterRead; split <;> rfl
@[simp] theorem afterRead_params (s : State) (w : Width) (a : Word) : (afterRead s w a).params = s.params := by
  unfold afterRead; split <;> rfl
@[simp] theorem afterRead_started (s : State) (w : Width) (a : Word) : (afterRead s w a).started = s.started := by
  unfold afterRead; split <;> rfl

@[simp] theorem afterWrite_regs (s : State) (w : Width) (a v : Word) : (afterWrite s w a v).regs = s.regs := by
  unfold afterWrite; split <;> simp
@[simp] theorem afterWrite_psw (s : State) (w : Width) (a v : Word) : (afterWrite s w a v).psw = s.psw := by
  unfold afterWrite; split <;> simp
@[simp] theorem afterWrite_devRead (s : State) (w : Width) (a v : Word) : (afterWrite s w a v).devRead = s.devRead := by
  unfold afterWrite; split <;> simp
@[simp] theorem afterWrite_devWrite (s : State) (w : Width) (a v : Word) : (afterWrite s w a v).devWrite = s.devWrite := by
  unfold afterWrite; split <;> simp
@[simp] theorem afterWrite_busLock (s : State) (w : Width) (a v : Word) : (afterWrite s w a v).busLock = s.busLock := by
  unfold afterWrite; split <;> simp
@[simp] theorem afterWrite_runFlag (s : State) (w : Width) (a v : Word) : (afterWrite s w a v).runFlag = s.runFlag := by
  unfold afterWrite; split <;> simp
@[simp] theorem afterWrite_execState (s : State) (w : Width) (a v : Word) : (afterWrite s w a v).execState = s.execState := by
  unfold afterWrite; split <;> simp
@[simp] theorem afterWrite_params (s : State) (w : Width) (a v : Word) : (afterWrite s w a v).params = s.params := by
  unfold afterWrite; split <;> simp
@[simp] theorem afterWrite_started (s : State) (w : Width) (a v : Word) : (afterWrite s w a v).started = s.started := by
  unfold afterWrite; split <;> simp
@[simp] theorem afterWrite_draws (s : State) (w : Width) (a v : Word) : (afterWrite s w a v).draws = s.draws := by
  unfold afterWrite; split <;> simp

/-! ### Registers -/

@[simp] theorem RegFile.get_set (f : RegFile) (r q : Reg) (c : RegCell) :
    (f.set r c).get q = if q = r then c else f.get q := by
  cases r <;> cases q <;> rfl

@[simp] theorem reg_setReg (s : State) (r q : Reg) (v : Word) :
    (s.setReg r v).reg q = if q = r then v else s.reg q := by
  simp only [State.reg, State.setReg, RegFile.get_set]; split <;> rfl

@[simp] theorem written_setReg (s : State) (r q : Reg) (v : Word) :
    (s.setReg r v).written q = (decide (q = r) || s.written q) := by
  simp only [State.written, State.setReg, RegFile.get_set]; split <;> simp_all

/-- A second write to a register replaces the first. -/
@[simp] theorem setReg_setReg_same (s : State) (r : Reg) (u v : Word) :
    (s.setReg r u).setReg r v = s.setReg r v := by
  cases r <;> rfl

@[simp] theorem reg_setByte (s : State) (a : Word) (b : Byte) (r : Reg) : (s.setByte a b).reg r = s.reg r := rfl
@[simp] theorem written_setByte (s : State) (a : Word) (b : Byte) (r : Reg) : (s.setByte a b).written r = s.written r := rfl
@[simp] theorem reg_setFlags (s : State) (q : Pattern) (r : Reg) : (s.setFlags q).reg r = s.reg r := rfl
@[simp] theorem written_setFlags (s : State) (q : Pattern) (r : Reg) : (s.setFlags q).written r = s.written r := rfl
@[simp] theorem reg_stop (s : State) (k : StopReason) (r : Reg) : (s.stop k).reg r = s.reg r := rfl
@[simp] theorem written_stop (s : State) (k : StopReason) (r : Reg) : (s.stop k).written r = s.written r := rfl
@[simp] theorem reg_arrayWrite (s : State) (w : Width) (a v : Word) (r : Reg) : (s.arrayWrite w a v).reg r = s.reg r := by
  simp only [State.reg, arrayWrite_regs]
@[simp] theorem written_arrayWrite (s : State) (w : Width) (a v : Word) (r : Reg) : (s.arrayWrite w a v).written r = s.written r := by
  simp only [State.written, arrayWrite_regs]
@[simp] theorem reg_afterRead (s : State) (w : Width) (a : Word) (r : Reg) : (afterRead s w a).reg r = s.reg r := by
  simp only [State.reg, afterRead_regs]
@[simp] theorem written_afterRead (s : State) (w : Width) (a : Word) (r : Reg) : (afterRead s w a).written r = s.written r := by
  simp only [State.written, afterRead_regs]
@[simp] theorem reg_afterWrite (s : State) (w : Width) (a v : Word) (r : Reg) : (afterWrite s w a v).reg r = s.reg r := by
  simp only [State.reg, afterWrite_regs]
@[simp] theorem written_afterWrite (s : State) (w : Width) (a v : Word) (r : Reg) : (afterWrite s w a v).written r = s.written r := by
  simp only [State.written, afterWrite_regs]

/-! ### Other values in unwritten registers -/

@[simp] theorem reg_refill (f : Reg → Word) (s : State) (r : Reg) :
    (s.refill f).reg r = if s.written r then s.reg r else f r := by
  cases r <;> simp only [State.reg, State.written, State.refill, RegFile.get, RegCell.refill] <;> split <;> simp_all

@[simp] theorem written_refill (f : Reg → Word) (s : State) (r : Reg) : (s.refill f).written r = s.written r := by
  cases r <;> simp only [State.written, State.refill, RegFile.get, RegCell.refill] <;> split <;> simp_all

@[simp] theorem refill_setReg (f : Reg → Word) (s : State) (r : Reg) (v : Word) :
    (s.setReg r v).refill f = (s.refill f).setReg r v := by
  cases r <;> rfl

/-! ### Where the bus routes, what the array holds -/

@[simp] theorem routedRead_setReg (s : State) (r : Reg) (v : Word) (a : Word) : (s.setReg r v).routedRead a = s.routedRead a := by
  simp only [State.routedRead, setReg_devRead]
@[simp] theorem routedWrite_setReg (s : State) (r : Reg) (v : Word) (a : Word) : (s.setReg r v).routedWrite a = s.routedWrite a := by
  simp only [State.routedWrite, setReg_devWrite]
@[simp] theorem busFree_setReg (s : State) (r : Reg) (v : Word) : busFree (s.setReg r v) = busFree s := rfl
@[simp] theorem routedRead_setByte (s : State) (x : Word) (b : Byte) (a : Word) : (s.setByte x b).routedRead a = s.routedRead a := by
  simp only [State.routedRead, setByte_devRead]
@[simp] theorem routedWrite_setByte (s : State) (x : Word) (b : Byte) (a : Word) : (s.setByte x b).routedWrite a = s.routedWrite a := by
  simp only [State.routedWrite, setByte_devWrite]
@[simp] theorem busFree_setByte (s : State) (x : Word) (b : Byte) : busFree (s.setByte x b) = busFree s := rfl
@[simp] theorem routedRead_setFlags (s : State) (q : Pattern) (a : Word) : (s.setFlags q).routedRead a = s.routedRead a := by
  simp only [State.routedRead, setFlags_devRead]
@[simp] theorem routedWrite_setFlags (s : State) (q : Pattern) (a : Word) : (s.setFlags q).routedWrite a = s.routedWrite a := by
  simp only [State.routedWrite, setFlags_devWrite]
@[simp] theorem busFree_setFlags (s : State) (q : Pattern) : busFree (s.setFlags q) = busFree s := rfl
@[simp] theorem routedRead_stop (s : State) (k : StopReason) (a : Word) : (s.stop k).routedRead a = s.routedRead a := by
  simp only [State.routedRead, stop_devRead]
@[simp] theorem routedWrite_stop (s : State) (k : StopReason) (a : Word) : (s.stop k).routedWrite a = s.routedWrite a := by
  simp only [State.routedWrite, stop_devWrite]
@[simp] theorem busFree_stop (s : State) (k : StopReason) : busFree (s.stop k) = busFree s := rfl
@[simp] theorem routedRead_arrayWrite (s : State) (w : Width) (x v : Word) (a : Word) : (s.arrayWrite w x v).routedRead a = s.routedRead a := by
  simp only [State.routedRead, arrayWrite_devRead]
@[simp] theorem routedWrite_arrayWrite (s : State) (w : Width) (x v : Word) (a : Word) : (s.arrayWrite w x v).routedWrite a = s.routedWrite a := by
  simp only [State.routedWrite, arrayWrite_devWrite]
@[simp] theorem busFree_arrayWrite (s : State) (w : Width) (x v : Word) : busFree (s.arrayWrite w x v) = busFree s := by
  simp only [busFree, arrayWrite_busLock]
@[simp] theorem routedRead_afterRead (s : State) (w : Width) (x : Word) (a : Word) : (afterRead s w x).routedRead a = s.routedRead a := by
  simp only [State.routedRead, afterRead_devRead]
@[simp] theorem routedWrite_afterRead (s : State) (w : Width) (x : Word) (a : Word) : (afterRead s w x).routedWrite a = s.routedWrite a := by
  simp only [State.routedWrite, afterRead_devWrite]
@[simp] theorem busFree_afterRead (s : State) (w : Width) (x : Word) : busFree (afterRead s w x) = busFree s := by
  simp only [busFree, afterRead_busLock]
@[simp] theorem routedRead_afterWrite (s : State) (w : Width) (x v : Word) (a : Word) : (afterWrite s w x v).routedRead a = s.routedRead a := by
  simp only [State.routedRead, afterWrite_devRead]
@[simp] theorem routedWrite_afterWrite (s : State) (w : Width) (x v : Word) (a : Word) : (afterWrite s w x v).routedWrite a = s.routedWrite a := by
  simp only [State.routedWrite, afterWrite_devWrite]
@[simp] theorem busFree_afterWrite (s : State) (w : Width) (x v : Word) : busFree (afterWrite s w x v) = busFree s := by
  simp only [busFree, afterWrite_busLock]
@[simp] theorem byteAt_setReg (s : State) (r : Reg) (v : Word) (a : Word) : (s.setReg r v).byteAt a = s.byteAt a := by
  simp only [State.byteAt, setReg_mem]
@[simp] theorem arrayRead_setReg (s : State) (r : Reg) (v : Word) (k : Width) (a : Word) : (s.setReg r v).arrayRead k a = s.arrayRead k a := by
  cases k <;> simp only [State.arrayRead, byteAt_setReg]
@[simp] theorem byteAt_setFlags (s : State) (q : Pattern) (a : Word) : (s.setFlags q).byteAt a = s.byteAt a := by
  simp only [State.byteAt, setFlags_mem]
@[simp] theorem arrayRead_setFlags (s : State) (q : Pattern) (k : Width) (a : Word) : (s.setFlags q).arrayRead k a = s.arrayRead k a := by
  cases k <;> simp only [State.arrayRead, byteAt_setFlags]
@[simp] theorem byteAt_afterRead (s : State) (w : Width) (x : Word) (a : Word) : (afterRead s w x).byteAt a = s.byteAt a := by
  simp only [State.byteAt, afterRead_mem]
@[simp] theorem arrayRead_afterRead (s : State) (w : Width) (x : Word) (k : Width) (a : Word) : (afterRead s w x).arrayRead k a = s.arrayRead k a := by
  cases k <;> simp only [State.arrayRead, byteAt_afterRead]
@[simp] theorem busValue_setReg (s : State) (r : Reg) (v : Word) (k : Width) (a : Word) : busValue (s.setReg r v) k a = busValue s k a := by
  simp only [busValue, routedRead_setReg, arrayRead_setReg, setReg_draws]
@[simp] theorem busValue_setFlags (s : State) (q : Pattern) (k : Width) (a : Word) : busValue (s.setFlags q) k a = busValue s k a := by
  simp only [busValue, routedRead_setFlags, arrayRead_setFlags, setFlags_draws]

/-! ### A register update and a bus access do not meet -/

theorem afterRead_setReg (s : State) (r : Reg) (v : Word) (w : Width) (a : Word) :
    afterRead (s.setReg r v) w a = (afterRead s w a).setReg r v := by
  unfold afterRead; simp only [routedRead_setReg]; split <;> rfl

theorem afterWrite_setReg (s : State) (r : Reg) (q : Word) (w : Width) (a v : Word) :
    afterWrite (s.setReg r q) w a v = (afterWrite s w a v).setReg r q := by
  unfold afterWrite; simp only [routedWrite_setReg]; split
  · rfl
  · cases w <;> rfl

end Sys2Proof.Machine
end

