-- ==== Sys2Proof/Laws/Memory.lean ====
section
/-! SUPPORT. The byte array: a write leaves every other address alone, a write is read back from a canonical memory,
and every memory operation keeps the canonical form. -/

namespace Sys2Proof.Machine

open Sys2Proof

/-- A write leaves every other address alone, in any memory. -/
theorem Memory.get_set_other (m : Memory) (a b : Nat) (v : Byte) (h : b ≠ a) : (m.set a v).get b = m.get b := by
  induction m with
  | nil => simp only [Memory.set]; split <;> simp_all [Memory.get, Ne.symm h]
  | cons c rest ih =>
    obtain ⟨k, x⟩ := c
    have h' : ¬ a = b := Ne.symm h
    simp only [Memory.set]
    split_ifs with c1 c2 c3 c4 <;> try subst c3
    all_goals simp [Memory.get, h', ih]

/-- Below the lower bound of a canonical memory nothing is listed. -/
theorem Memory.get_of_lt {m : Memory} {lo a : Nat} (h : Memory.wfFrom lo m = true) (ha : a < lo) :
    m.get a = Memory.unlisted := by
  induction m generalizing lo with
  | nil => rfl
  | cons c rest ih =>
    obtain ⟨k, x⟩ := c
    simp only [Memory.wfFrom, Bool.and_eq_true, decide_eq_true_eq] at h
    simp only [Memory.get, if_neg (by omega : ¬ k = a)]
    exact ih h.2 (by omega)

/-- In a canonical memory a write is read back. -/
theorem Memory.get_set_same {m : Memory} {lo : Nat} (a : Nat) (v : Byte) (h : Memory.wfFrom lo m = true) :
    (m.set a v).get a = v := by
  induction m generalizing lo with
  | nil => simp only [Memory.set]; split <;> simp_all [Memory.get]
  | cons c rest ih =>
    obtain ⟨k, x⟩ := c
    simp only [Memory.wfFrom, Bool.and_eq_true, decide_eq_true_eq] at h
    have hr := h.2
    simp only [Memory.set]
    split_ifs with h1 h2 h3 h4
    · simp only [Memory.get, if_neg (by omega : ¬ k = a), h2, Memory.get_of_lt hr (by omega : a < k + 1)]
    · simp [Memory.get]
    · rw [h4, Memory.get_of_lt hr (by omega)]
    · simp [Memory.get]
    · simp only [Memory.get, if_neg (Ne.symm h3)]
      exact ih hr

/-- The bound of a canonical memory may be lowered. -/
theorem Memory.wfFrom_mono {m : Memory} {lo lo' : Nat} (h : Memory.wfFrom lo m = true) (hl : lo' ≤ lo) :
    Memory.wfFrom lo' m = true := by
  cases m with
  | nil => rfl
  | cons c rest =>
    obtain ⟨k, x⟩ := c
    simp only [Memory.wfFrom, Bool.and_eq_true, decide_eq_true_eq] at h ⊢
    exact ⟨⟨⟨by omega, h.1.1.2⟩, h.1.2⟩, h.2⟩

/-- A write below 2^16 keeps the canonical form. -/
theorem Memory.wfFrom_set {m : Memory} {lo a : Nat} (v : Byte) (h : Memory.wfFrom lo m = true) (hlo : lo ≤ a)
    (ha : a < 65536) : Memory.wfFrom lo (m.set a v) = true := by
  induction m generalizing lo with
  | nil => simp only [Memory.set]; split <;> simp_all [Memory.wfFrom]
  | cons c rest ih =>
    obtain ⟨k, x⟩ := c
    have h' := h
    simp only [Memory.wfFrom, Bool.and_eq_true, decide_eq_true_eq] at h
    obtain ⟨⟨⟨h1, h2⟩, h3⟩, h4⟩ := h
    simp only [Memory.set]
    split_ifs with c1 c2 c3 c4
    · exact h'
    · simp only [Memory.wfFrom, Bool.and_eq_true, decide_eq_true_eq]
      exact ⟨⟨⟨hlo, ha⟩, c2⟩, ⟨⟨by omega, h2⟩, h3⟩, h4⟩
    · exact Memory.wfFrom_mono h4 (by omega)
    · simp only [Memory.wfFrom, Bool.and_eq_true, decide_eq_true_eq]
      exact ⟨⟨⟨hlo, ha⟩, c4⟩, by rw [c3]; exact h4⟩
    · simp only [Memory.wfFrom, Bool.and_eq_true, decide_eq_true_eq]
      exact ⟨⟨⟨h1, h2⟩, h3⟩, ih h4 (by omega)⟩

/-- Canonical memories that read alike from their bound on are equal. -/
theorem Memory.ext_of_get {m n : Memory} {lo : Nat} (hm : Memory.wfFrom lo m = true) (hn : Memory.wfFrom lo n = true)
    (h : ∀ a, m.get a = n.get a) : m = n := by
  induction m generalizing n lo with
  | nil =>
    cases n with
    | nil => rfl
    | cons c rest =>
      obtain ⟨k, x⟩ := c
      simp only [Memory.wfFrom, Bool.and_eq_true, decide_eq_true_eq] at hn
      exact absurd (by simpa [Memory.get] using (h k).symm) hn.1.2
  | cons c rest ih =>
    obtain ⟨k, x⟩ := c
    simp only [Memory.wfFrom, Bool.and_eq_true, decide_eq_true_eq] at hm
    cases n with
    | nil => exact absurd (by simpa [Memory.get] using h k) hm.1.2
    | cons d rest' =>
      obtain ⟨j, y⟩ := d
      simp only [Memory.wfFrom, Bool.and_eq_true, decide_eq_true_eq] at hn
      rcases Nat.lt_trichotomy k j with c1 | c1 | c1
      · have := h k
        simp only [Memory.get, if_true, if_neg (by omega : ¬ j = k), Memory.get_of_lt hn.2 (by omega : k < j + 1)] at this
        exact absurd this hm.1.2
      · subst c1
        have hx : x = y := by simpa [Memory.get] using h k
        subst hx
        rw [ih hm.2 hn.2]
        intro a
        by_cases ha : k = a
        · rw [← ha, Memory.get_of_lt hm.2 (by omega), Memory.get_of_lt hn.2 (by omega)]
        · simpa [Memory.get, ha] using h a
      · have := h j
        simp only [Memory.get, if_true, if_neg (by omega : ¬ k = j), Memory.get_of_lt hm.2 (by omega : j < k + 1)] at this
        exact absurd this.symm hn.1.2

/-- A byte write of the state keeps the canonical form. -/
theorem setByte_wf (s : State) (a : Word) (b : Byte) (h : s.mem.wf = true) : (s.setByte a b).mem.wf = true :=
  Memory.wfFrom_set b h (Nat.zero_le _) a.isLt

/-- A byte write leaves every other byte alone. -/
theorem byteAt_setByte_other (s : State) (a c : Word) (b : Byte) (h : c ≠ a) :
    (s.setByte a b).byteAt c = s.byteAt c :=
  Memory.get_set_other _ _ _ _ fun e => h (BitVec.eq_of_toNat_eq e)

/-- A byte write is read back. -/
theorem byteAt_setByte_same (s : State) (a : Word) (b : Byte) (h : s.mem.wf = true) :
    (s.setByte a b).byteAt a = b :=
  Memory.get_set_same _ _ h

/-- An array write keeps the canonical form. -/
theorem arrayWrite_wf (s : State) (w : Width) (a v : Word) (h : s.mem.wf = true) : (s.arrayWrite w a v).mem.wf = true := by
  cases w
  · exact setByte_wf s a _ h
  · exact setByte_wf _ _ _ (setByte_wf s a _ h)

/-- An array write leaves every byte outside its own alone. -/
theorem byteAt_arrayWrite_other (s : State) (w : Width) (a v c : Word) (h : c ∉ bytesAt w a) :
    (s.arrayWrite w a v).byteAt c = s.byteAt c := by
  cases w <;> simp only [bytesAt, List.mem_cons, List.not_mem_nil, or_false, not_or] at h
  · exact byteAt_setByte_other _ _ _ _ h
  · exact (byteAt_setByte_other _ _ _ _ h.2).trans (byteAt_setByte_other _ _ _ _ h.1)

/-- A bus write keeps the canonical form. -/
theorem afterWrite_wf (s : State) (w : Width) (a v : Word) (h : s.mem.wf = true) : (afterWrite s w a v).mem.wf = true := by
  unfold afterWrite; split
  · exact h
  · exact arrayWrite_wf s w a v h

/-- A bus write leaves every byte outside its own alone. -/
theorem byteAt_afterWrite_other (s : State) (w : Width) (a v c : Word) (h : c ∉ bytesAt w a) :
    (afterWrite s w a v).byteAt c = s.byteAt c := by
  unfold afterWrite; split
  · rfl
  · exact byteAt_arrayWrite_other s w a v c h

/-- The bytes of an instruction stored keep the canonical form. -/
theorem storeBytes_wf (s : State) (a : Word) (bs : List Byte) (h : s.mem.wf = true) :
    (s.storeBytes a bs).mem.wf = true := by
  induction bs generalizing s a with
  | nil => exact h
  | cons b bs ih => exact ih _ _ (setByte_wf s a b h)

/-- Placing an instruction keeps the canonical form. -/
theorem withFetchWord_wf (s : State) (nbits w : Nat) (h : s.mem.wf = true) : (s.withFetchWord nbits w).mem.wf = true :=
  storeBytes_wf s _ _ h

/-- The memory of the reset state is canonical. -/
theorem reset_mem_wf : State.reset.mem.wf = true := rfl

end Sys2Proof.Machine
end

