-- ==== Sys2Proof/Laws/Ops.lean ====
section
/-! SUPPORT. How `Exec` runs, and for each shared operation over registers, the bus, the stack and the traps what it
answers when it goes through. Proofs about instructions cite these and do not unfold the operations. -/

namespace Sys2Proof.Machine

open Sys2Proof

/-! ### Running a piece of an instruction -/

@[simp] theorem bind_apply {α β : Type} (x : Exec α) (f : α → Exec β) (s : State) :
    (x >>= f) s = match x s with | .ok a t => f a t | .error e t => .error e t := by
  simp only [bind, EStateM.bind]; cases x s <;> rfl
@[simp] theorem map_apply {α β : Type} (x : Exec α) (f : α → β) (s : State) :
    (f <$> x) s = match x s with | .ok a t => .ok (f a) t | .error e t => .error e t := by
  simp only [Functor.map, EStateM.map]; cases x s <;> rfl
@[simp] theorem pure_apply {α : Type} (a : α) (s : State) : (pure a : Exec α) s = .ok a s := rfl
@[simp] theorem get_apply (s : State) : (get : Exec State) s = .ok s s := rfl
@[simp] theorem set_apply (s t : State) : (set t : Exec PUnit) s = .ok ⟨⟩ t := rfl
@[simp] theorem modify_apply (f : State → State) (s : State) : (modify f : Exec PUnit) s = .ok ⟨⟩ (f s) := rfl
@[simp] theorem modifyGet_apply {α : Type} (f : State → α × State) (s : State) :
    (modifyGet f : Exec α) s = .ok (f s).1 (f s).2 := rfl
@[simp] theorem throw_apply {α : Type} (e : Abort) (s : State) : (throw e : Exec α) s = .error e s := rfl
@[simp] theorem raise_apply {α : Type} (f : Fault) (s : State) : (raise f : Exec α) s = .error (.fault f) s := rfl

/-- Where a sequence raises: in its first piece, or in the second from where the first leaves the state. -/
theorem bind_error {α β : Type} {x : Exec α} {f : α → Exec β} {s t : State} {e : Abort}
    (h : (x >>= f) s = .error e t) : x s = .error e t ∨ ∃ a u, x s = .ok a u ∧ f a u = .error e t := by
  rw [bind_apply] at h; split at h
  · next a u hu => exact .inr ⟨a, u, hu, h⟩
  · next hu => cases h; exact .inl hu

theorem finish_ok {m : Exec Unit} {s t : State} (h : m s = .ok () t) : finish m s = .next t := by
  unfold finish; rw [h]
theorem finish_fault {m : Exec Unit} {s t : State} {f : Fault} (h : m s = .error (.fault f) t) :
    finish m s = .next (t.stop (.fault f)) := by
  unfold finish; rw [h]
theorem finish_refuse {m : Exec Unit} {s t : State} {r : Refusal} (h : m s = .error (.refuse r) t) :
    finish m s = .refused r := by
  unfold finish; rw [h]

/-- Everything an instruction can end in. -/
theorem finish_next {m : Exec Unit} {s t : State} (h : finish m s = .next t) :
    m s = .ok () t ∨ ∃ f u, m s = .error (.fault f) u ∧ t = u.stop (.fault f) := by
  unfold finish at h
  split at h
  · next e => cases h; exact .inl e
  · next f u e => cases h; exact .inr ⟨f, u, e, rfl⟩
  · cases h

/-! ### Registers -/

@[simp] theorem writeReg_apply (s : State) (r : Reg) (v : Word) : writeReg r v s = .ok () (s.setReg r v) := rfl
@[simp] theorem readReg_apply (s : State) (r : Reg) : readReg r s = .ok (s.reg r) s := rfl

/-! ### The bus -/

theorem eq_free_of_busFree {s : State} (h : busFree s = true) : s.busLock = .free := by simpa [busFree] using h

theorem checkAligned_ok {s : State} {w : Width} {a : Word} (h : aligned w a = true) : checkAligned w a s = .ok () s := by
  cases w <;> simp_all [checkAligned, aligned]
theorem checkAligned_odd {s : State} {a : Word} (h : isOddAddr a = true) :
    checkAligned .word a s = .error (.fault (.busFault .oddAddress a)) s := by
  simp [checkAligned, h]

theorem memRead_ok {s : State} {w : Width} {a : Word} (ha : aligned w a = true) (hb : busFree s = true) :
    memRead w a s = .ok (busValue s w a) (afterRead s w a) := by
  have hf := eq_free_of_busFree hb
  by_cases hr : s.routedRead a = true
  · simp [memRead, checkAligned_ok ha, hr, deviceRead, acquireBus, hf, drawDevice, recordCall, releaseBus, busValue,
      afterRead]
  · simp [memRead, checkAligned_ok ha, hr, busValue, afterRead]
theorem memRead_odd {s : State} {a : Word} (ha : isOddAddr a = true) :
    memRead .word a s = .error (.fault (.busFault .oddAddress a)) s := by
  simp [memRead, checkAligned_odd ha]

theorem memWrite_ok {s : State} {w : Width} {a v : Word} (ha : aligned w a = true) (hb : busFree s = true) :
    memWrite w a v s = .ok () (afterWrite s w a v) := by
  have hf := eq_free_of_busFree hb
  by_cases hr : s.routedWrite a = true
  · simp [memWrite, checkAligned_ok ha, hr, deviceWrite, acquireBus, hf, recordCall, releaseBus, afterWrite]
  · simp [memWrite, checkAligned_ok ha, hr, afterWrite]
theorem memWrite_odd {s : State} {a v : Word} (ha : isOddAddr a = true) :
    memWrite .word a v s = .error (.fault (.busFault .oddAddress a)) s := by
  simp [memWrite, checkAligned_odd ha]

/-- Everything a bus read can do: answer the value, raise on an odd word address, or be refused on a held lock. -/
theorem memRead_cases (s : State) (w : Width) (a : Word) :
    memRead w a s = .ok (busValue s w a) (afterRead s w a) ∨
    memRead w a s = .error (.fault (.busFault .oddAddress a)) s ∨
    memRead w a s = .error (.refuse .busLockHeld) s := by
  by_cases ha : aligned w a = true
  · by_cases hb : busFree s = true
    · exact .inl (memRead_ok ha hb)
    · by_cases hr : s.routedRead a = true
      · right; right
        have : ¬ s.busLock = .free := by simpa [busFree] using hb
        simp [memRead, checkAligned_ok ha, hr, deviceRead, acquireBus, this]
      · left; simp [memRead, checkAligned_ok ha, hr, busValue, afterRead]
  · right; left
    cases w <;> simp [aligned] at ha
    exact memRead_odd ha

/-- Everything a bus write can do. -/
theorem memWrite_cases (s : State) (w : Width) (a v : Word) :
    memWrite w a v s = .ok () (afterWrite s w a v) ∨
    memWrite w a v s = .error (.fault (.busFault .oddAddress a)) s ∨
    memWrite w a v s = .error (.refuse .busLockHeld) s := by
  by_cases ha : aligned w a = true
  · by_cases hb : busFree s = true
    · exact .inl (memWrite_ok ha hb)
    · by_cases hr : s.routedWrite a = true
      · right; right
        have : ¬ s.busLock = .free := by simpa [busFree] using hb
        simp [memWrite, checkAligned_ok ha, hr, deviceWrite, acquireBus, this]
      · left; simp [memWrite, checkAligned_ok ha, hr, afterWrite]
  · right; left
    cases w <;> simp [aligned] at ha
    exact memWrite_odd ha

/-! ### Fetch and stack -/

theorem aligned_word {a : Word} (h : isOddAddr a = false) : aligned .word a = true := by simp [aligned, h]

theorem fetchWord_ok {s : State} (h : fetchReady s = true) : fetchWord s = .ok (fetchValue s) (afterFetch s) := by
  simp only [fetchReady, Bool.and_eq_true, Bool.not_eq_true'] at h
  simp only [fetchWord, bind_apply, readReg_apply, memRead_ok (aligned_word h.2) h.1, writeReg_apply, pure_apply,
    fetchValue, afterFetch]

theorem fetchWord_odd {s : State} (ha : isOddAddr (s.reg .r7) = true) :
    fetchWord s = .error (.fault (.busFault .oddAddress (s.reg .r7))) s := by
  simp only [fetchWord, bind_apply, readReg_apply, memRead_odd ha]

theorem push_ok {s : State} (v : Word) (h : stackReady s = true) : push v s = .ok () (afterPush s v) := by
  simp only [stackReady, Bool.and_eq_true, Bool.not_eq_true'] at h
  have : isOddAddr (s.reg .r6 - 2) = false := by
    have := h.2; simp only [isOddAddr] at this ⊢; rw [BitVec.sub_eq_add_neg]
    simpa [BitVec.getLsbD, BitVec.toNat_add, Nat.testBit_zero, Nat.add_mod] using this
  have hb : busFree (s.setReg .r6 (s.reg .r6 - 2)) = true := by simpa using h.1
  simp only [push, bind_apply, readReg_apply, writeReg_apply, memWrite_ok (aligned_word this) hb, afterPush]

theorem pop_ok {s : State} (h : stackReady s = true) : pop s = .ok (popValue s) (afterPop s) := by
  simp only [stackReady, Bool.and_eq_true, Bool.not_eq_true'] at h
  simp only [pop, bind_apply, readReg_apply, memRead_ok (aligned_word h.2) h.1, writeReg_apply, pure_apply,
    popValue, afterPop]

/-! ### The PSW -/

@[simp] theorem readPsw_apply (s : State) : readPsw s = .ok s.psw s := rfl
@[simp] theorem writePsw_apply (s : State) (v : Word) : writePsw v s = .ok () { s with psw := v } := rfl
@[simp] theorem setFlags_apply (s : State) (q : Pattern) : setFlags q s = .ok () (s.setFlags q) := rfl
@[simp] theorem drawFlag_apply (s : State) :
    drawFlag s = .ok (Config.freeFlag s.draws) { s with draws := s.draws + 1 } := rfl

end Sys2Proof.Machine
end

