-- ==== Sys2Proof/Laws/Operands.lean ====
section
/-! SUPPORT. What the operand resolver and operand access answer when they go through, and the small facts about their
plain readings in Safety. -/

namespace Sys2Proof.Machine

open Sys2Proof

theorem busFree_of_resolvable {s : State} {o : Specifier} (h : resolvable s o = true) : busFree s = true := by
  simp only [resolvable, Bool.and_eq_true] at h; exact h.1

@[simp] theorem busFree_afterFetch (s : State) : busFree (afterFetch s) = busFree s := by
  simp [afterFetch]

@[simp] theorem busFree_afterResolve (s : State) (o : Specifier) (w : Width) :
    busFree (afterResolve s o w) = busFree s := by
  unfold afterResolve; split <;> simp

@[simp] theorem psw_afterFetch (s : State) : (afterFetch s).psw = s.psw := by simp [afterFetch]

@[simp] theorem psw_afterResolve (s : State) (o : Specifier) (w : Width) : (afterResolve s o w).psw = s.psw := by
  unfold afterResolve; split <;> simp

@[simp] theorem psw_afterReadOp (s : State) (op : Operand) (w : Width) : (afterReadOp s op w).psw = s.psw := by
  cases op <;> simp [afterReadOp]

@[simp] theorem busFree_afterReadOp (s : State) (op : Operand) (w : Width) :
    busFree (afterReadOp s op w) = busFree s := by
  cases op <;> simp [afterReadOp]

@[simp] theorem mem_afterFetch (s : State) : (afterFetch s).mem = s.mem := by simp [afterFetch]

@[simp] theorem mem_afterResolve (s : State) (o : Specifier) (w : Width) : (afterResolve s o w).mem = s.mem := by
  unfold afterResolve; split <;> simp

@[simp] theorem mem_afterReadOp (s : State) (op : Operand) (w : Width) : (afterReadOp s op w).mem = s.mem := by
  cases op <;> simp [afterReadOp]

/-! ### Values are masked to their width -/

@[simp] theorem truncTo_word (v : Word) : truncTo .word v = v := BitVec.and_allOnes

@[simp] theorem truncTo_truncTo (w : Width) (v : Word) : truncTo w (truncTo w v) = truncTo w v := by
  simp only [truncTo, BitVec.and_assoc, BitVec.and_self]

@[simp] theorem truncTo_zero (w : Width) : truncTo w 0#16 = 0#16 := BitVec.zero_and

@[simp] theorem truncTo_arrayRead (s : State) (w : Width) (a : Word) : truncTo w (s.arrayRead w a) = s.arrayRead w a := by
  cases w
  · have h (b : Byte) : zext b &&& 0o377 = zext b := by revert b; decide
    exact h _
  · exact truncTo_word _

@[simp] theorem truncTo_busValue (s : State) (w : Width) (a : Word) : truncTo w (busValue s w a) = busValue s w a := by
  unfold busValue; split <;> simp

@[simp] theorem truncTo_valueOf (s : State) (op : Operand) (w : Width) : truncTo w (valueOf s op w) = valueOf s op w := by
  cases op <;> simp [valueOf]

/-! ### Resolution, reads and writes that go through -/

theorem resolveEA_ok {s : State} {o : Specifier} (w : Width) (h : resolvable s o = true) :
    resolveEA o w s = .ok (effAddr s o w) (afterResolve s o w) := by
  have hb := busFree_of_resolvable h
  obtain ⟨m, r⟩ := o
  cases m <;> simp only [resolvable, Bool.and_eq_true, Bool.not_eq_true'] at h <;>
    simp only [resolveEA, effAddr, afterResolve, pure_apply, bind_apply, readReg_apply, writeReg_apply]
  case autoIncDeferred =>
    have hb' : busFree (s.setReg r (s.reg r + 2)) = true := by simpa using hb
    simp only [memRead_ok (aligned_word h.2) hb', busValue_setReg]
  case autoDecDeferred =>
    have hb' : busFree (s.setReg r (s.reg r - 2)) = true := by simpa using hb
    simp only [memRead_ok (aligned_word h.2) hb', busValue_setReg]
  case index => simp only [fetchWord_ok h.2]
  case indexDeferred =>
    have hb' : busFree (afterFetch s) = true := by simpa using hb
    simp only [fetchWord_ok h.2.1, memRead_ok (aligned_word h.2.2) hb']

theorem resolve_ok {s : State} {o : Specifier} (w : Width) (h : resolvable s o = true) :
    resolve o w s = .ok (operandOf s o w) (afterResolve s o w) := by
  have he := resolveEA_ok w h
  obtain ⟨m, r⟩ := o
  cases m
  case register => rfl
  all_goals simp only [resolve, bind_apply, he, pure_apply, operandOf]; rfl

/-- A raise inside the mode's own accesses is the raise of the resolution. -/
theorem resolve_error {s t : State} {o : Specifier} {w : Width} {e : Abort} (h : resolveEA o w s = .error e t) :
    resolve o w s = .error e t := by
  obtain ⟨m, r⟩ := o
  cases m
  · simp [resolveEA] at h
  all_goals simp only [resolve, bind_apply, h]

theorem resolveJump_error {s t : State} {o : Specifier} {e : Abort} (h : resolveEA o .word s = .error e t) :
    resolveJump o s = .error e t := by
  obtain ⟨m, r⟩ := o
  cases m
  · simp [resolveEA] at h
  all_goals simpa [resolveJump] using h

theorem resolveJump_ok {s : State} {o : Specifier} (hm : o.mode ≠ .register) (h : resolvable s o = true) :
    resolveJump o s = .ok (effAddr s o .word) (afterResolve s o .word) := by
  simp only [resolveJump, hm, if_false, resolveEA_ok .word h]

theorem resolveJump_register {s : State} {o : Specifier} (hm : o.mode = .register) :
    resolveJump o s = .error (.fault (.illegalJumpMode o)) s := by
  simp only [resolveJump, hm, if_true, raise_apply]

theorem readOp_ok {s : State} {op : Operand} {w : Width} (h : canAccess s op w = true) :
    readOp op w s = .ok (valueOf s op w) (afterReadOp s op w) := by
  cases op with
  | reg r => simp only [readOp, bind_apply, readReg_apply, pure_apply, valueOf, afterReadOp]
  | mem ea =>
    simp only [canAccess, Bool.and_eq_true] at h
    simp only [readOp, memRead_ok h.2 h.1, valueOf, afterReadOp]

theorem writeOp_ok {s : State} {op : Operand} {w : Width} (v : Word) (h : canAccess s op w = true) :
    writeOp op w v s = .ok () (afterWriteOp s op w v) := by
  cases op with
  | reg r =>
    cases w
    · simp only [writeOp, bind_apply, readReg_apply, writeReg_apply, keepHigh, afterWriteOp]
    · simp only [writeOp, writeReg_apply, afterWriteOp]
  | mem ea =>
    simp only [canAccess, Bool.and_eq_true] at h
    simp only [writeOp, memWrite_ok h.2 h.1, afterWriteOp]

/-- An operand whose read went through can be written after it. -/
theorem canAccess_afterReadOp {s : State} {op : Operand} {w : Width} (h : canAccess s op w = true) :
    canAccess (afterReadOp s op w) op w = true := by
  cases op with
  | reg r => rfl
  | mem ea => simpa [canAccess, afterReadOp] using h

/-- `Resolve` then `ReadOp` of a ready specifier. -/
theorem resolve_of_ready {s : State} {o : Specifier} {w : Width} (h : specReady s o w = true) :
    resolve o w s = .ok (readSpec s o w).op (afterResolve s o w) := by
  simp only [specReady, Bool.and_eq_true] at h; exact resolve_ok w h.1

theorem readOp_of_ready {s : State} {o : Specifier} {w : Width} (h : specReady s o w = true) :
    readOp (readSpec s o w).op w (afterResolve s o w) = .ok (readSpec s o w).value (readSpec s o w).after := by
  simp only [specReady, Bool.and_eq_true] at h; exact readOp_ok h.2

theorem canAccess_of_ready {s : State} {o : Specifier} {w : Width} (h : specReady s o w = true) :
    canAccess (readSpec s o w).after (readSpec s o w).op w = true := by
  simp only [specReady, Bool.and_eq_true] at h; exact canAccess_afterReadOp h.2

@[simp] theorem psw_readSpec (s : State) (o : Specifier) (w : Width) : (readSpec s o w).after.psw = s.psw := by
  simp [readSpec]

@[simp] theorem busFree_readSpec (s : State) (o : Specifier) (w : Width) : busFree (readSpec s o w).after = busFree s := by
  simp [readSpec]

@[simp] theorem mem_readSpec (s : State) (o : Specifier) (w : Width) : (readSpec s o w).after.mem = s.mem := by
  simp [readSpec]

end Sys2Proof.Machine
end

