-- ==== Sys2Proof/Laws/Frame.lean ====
section
/-! SUPPORT. Frames: what a piece of an instruction can change, wherever it ends, for each shared operation once. An
instruction's frame is the composition of its pieces' frames. -/

namespace Sys2Proof.Machine

open Sys2Proof

/-- The piece ends in the state, by completing or by raising. -/
def Ends {α : Type} (m : Exec α) (s t : State) : Prop := (∃ a, m s = .ok a t) ∨ ∃ e, m s = .error e t

/-- Nothing changes but the registers of the list, the bytes of the set, the PSW as the relation allows, and the
record of device calls and draws. -/
structure Within (l : List Reg) (psw : Word → Word → Prop) (bytes : Word → Prop) (s t : State) : Prop where
  regs  : ∀ r, r ∉ l → t.reg r = s.reg r ∧ t.written r = s.written r
  psw   : psw s.psw t.psw
  bytes : ∀ c, ¬ bytes c → t.byteAt c = s.byteAt c
  read  : t.devRead = s.devRead
  write : t.devWrite = s.devWrite
  prm   : t.params = s.params
  lock  : t.busLock = s.busLock
  start : t.started = s.started
  exec  : t.execState = s.execState
  flag  : t.runFlag = s.runFlag

/-- The piece stays within the frame from every state. -/
def Keeps {α : Type} (l : List Reg) (psw : Word → Word → Prop) (bytes : Word → Prop) (m : Exec α) : Prop :=
  ∀ s t, Ends m s t → Within l psw bytes s t

/-- PSW bits 15-4 are the same. -/
def sameHigh (p q : Word) : Prop := q.extractLsb' 4 12 = p.extractLsb' 4 12

/-- No byte. -/
def noBytes : Word → Prop := fun _ => False

theorem Within.refl {l : List Reg} {q : Word → Word → Prop} {b : Word → Prop} {s : State} (h : q s.psw s.psw) :
    Within l q b s s := ⟨fun _ _ => ⟨rfl, rfl⟩, h, fun _ _ => rfl, rfl, rfl, rfl, rfl, rfl, rfl, rfl⟩

theorem Within.trans {l : List Reg} {q : Word → Word → Prop} {b : Word → Prop} {s t u : State}
    (hq : ∀ x y z, q x y → q y z → q x z) (h : Within l q b s t) (k : Within l q b t u) : Within l q b s u :=
  ⟨fun r hr => ⟨(k.regs r hr).1.trans (h.regs r hr).1, (k.regs r hr).2.trans (h.regs r hr).2⟩, hq _ _ _ h.psw k.psw,
   fun c hc => (k.bytes c hc).trans (h.bytes c hc), k.read.trans h.read, k.write.trans h.write, k.prm.trans h.prm,
   k.lock.trans h.lock, k.start.trans h.start, k.exec.trans h.exec, k.flag.trans h.flag⟩

theorem Within.mono {l l' : List Reg} {q q' : Word → Word → Prop} {b b' : Word → Prop} {s t : State}
    (h : Within l q b s t) (hl : ∀ r, r ∈ l → r ∈ l') (hq : q s.psw t.psw → q' s.psw t.psw) (hb : ∀ c, b c → b' c) :
    Within l' q' b' s t :=
  ⟨fun r hr => h.regs r fun m => hr (hl r m), hq h.psw, fun c hc => h.bytes c fun m => hc (hb c m), h.read, h.write,
   h.prm, h.lock, h.start, h.exec, h.flag⟩

/-- Where a sequence ends: in its first piece's raise, or where the second ends. -/
theorem Ends.bind {α β : Type} {m : Exec α} {f : α → Exec β} {s t : State} (h : Ends (m >>= f) s t) :
    (∃ e, m s = .error e t) ∨ ∃ a u, m s = .ok a u ∧ Ends (f a) u t := by
  rcases h with ⟨a, h⟩ | ⟨e, h⟩ <;> rw [bind_apply] at h <;> split at h
  · next x u hx => exact .inr ⟨x, u, hx, .inl ⟨a, h⟩⟩
  · cases h
  · next x u hx => exact .inr ⟨x, u, hx, .inr ⟨e, h⟩⟩
  · next x u hx => cases h; exact .inl ⟨e, hx⟩

/-- The outcome of an instruction is where its pieces end, stopped by a fault or not. -/
theorem Ends.of_finish {m : Exec Unit} {s t : State} (h : finish m s = .next t) :
    ∃ u, Ends m s u ∧ (t = u ∨ ∃ f, t = u.stop (.fault f)) := by
  rcases finish_next h with k | ⟨f, u, k, rfl⟩
  · exact ⟨t, .inl ⟨(), k⟩, .inl rfl⟩
  · exact ⟨u, .inr ⟨_, k⟩, .inr ⟨f, rfl⟩⟩

section pieces

variable {l : List Reg} {q : Word → Word → Prop} {b : Word → Prop}

theorem Keeps.bind {α β : Type} {m : Exec α} {f : α → Exec β} (hq : ∀ x y z, q x y → q y z → q x z)
    (h : Keeps l q b m) (k : ∀ a, Keeps l q b (f a)) : Keeps l q b (m >>= f) := fun s t e => by
  rcases e.bind with ⟨e, he⟩ | ⟨a, u, ha, he⟩
  · exact h s t (.inr ⟨e, he⟩)
  · exact (h s u (.inl ⟨a, ha⟩)).trans hq (k a u t he)

theorem Keeps.mono {α : Type} {l' : List Reg} {q' : Word → Word → Prop} {b' : Word → Prop} {m : Exec α}
    (h : Keeps l q b m) (hl : ∀ r, r ∈ l → r ∈ l') (hq : ∀ x y, q x y → q' x y) (hb : ∀ c, b c → b' c) :
    Keeps l' q' b' m := fun s t e => (h s t e).mono hl (hq _ _) hb

/-- A piece that ends where it begins. -/
theorem Keeps.of_same {α : Type} {m : Exec α} (hr : ∀ x, q x x) (h : ∀ s t, Ends m s t → t = s) : Keeps l q b m :=
  fun s t e => by rw [h s t e]; exact .refl (hr _)

theorem keeps_pure {α : Type} (a : α) (hr : ∀ x, q x x) : Keeps l q b (pure a : Exec α) :=
  .of_same hr fun s t e => by rcases e with ⟨_, e⟩ | ⟨_, e⟩ <;> cases e; rfl

theorem keeps_get (hr : ∀ x, q x x) : Keeps l q b (get : Exec State) :=
  .of_same hr fun s t e => by rcases e with ⟨_, e⟩ | ⟨_, e⟩ <;> cases e; rfl

theorem keeps_raise {α : Type} (f : Fault) (hr : ∀ x, q x x) : Keeps l q b (raise f : Exec α) :=
  .of_same hr fun s t e => by rcases e with ⟨_, e⟩ | ⟨_, e⟩ <;> cases e; rfl

theorem keeps_readReg (r : Reg) (hr : ∀ x, q x x) : Keeps l q b (readReg r) :=
  .of_same hr fun s t e => by rcases e with ⟨_, e⟩ | ⟨_, e⟩ <;> cases e; rfl

theorem keeps_readPsw (hr : ∀ x, q x x) : Keeps l q b readPsw :=
  .of_same hr fun s t e => by rcases e with ⟨_, e⟩ | ⟨_, e⟩ <;> cases e; rfl

theorem keeps_writeReg (r : Reg) (v : Word) (hr : ∀ x, q x x) (h : r ∈ l) : Keeps l q b (writeReg r v) := fun s t e => by
  have : t = s.setReg r v := by rcases e with ⟨_, e⟩ | ⟨_, e⟩ <;> cases e; rfl
  subst this
  refine ⟨fun p hp => ?_, hr _, fun _ _ => rfl, rfl, rfl, rfl, rfl, rfl, rfl, rfl⟩
  have hne : p ≠ r := fun e => hp (e ▸ h)
  exact ⟨by rw [reg_setReg, if_neg hne], by simp [written_setReg, hne]⟩

theorem keeps_setPsw {m : Exec Unit} {f : Word → Word} (hm : ∀ s, m s = .ok () { s with psw := f s.psw })
    (hf : ∀ x, q x (f x)) : Keeps l q b m := fun s t e => by
  have : t = { s with psw := f s.psw } := by
    rcases e with ⟨_, e⟩ | ⟨_, e⟩ <;> rw [hm] at e <;> cases e; rfl
  subst this
  exact ⟨fun _ _ => ⟨rfl, rfl⟩, hf _, fun _ _ => rfl, rfl, rfl, rfl, rfl, rfl, rfl, rfl⟩

theorem keeps_setFlags (p : Pattern) (h : ∀ x, q x (applyPattern p x)) : Keeps l q b (setFlags p) :=
  keeps_setPsw (fun _ => rfl) h

theorem keeps_writePsw (v : Word) (h : ∀ x, q x v) : Keeps l q b (writePsw v) :=
  keeps_setPsw (f := fun _ => v) (fun _ => rfl) h

theorem keeps_drawFlag (hr : ∀ x, q x x) : Keeps l q b drawFlag := fun s t e => by
  have : t = { s with draws := s.draws + 1 } := by rcases e with ⟨_, e⟩ | ⟨_, e⟩ <;> cases e; rfl
  subst this
  exact ⟨fun _ _ => ⟨rfl, rfl⟩, hr _, fun _ _ => rfl, rfl, rfl, rfl, rfl, rfl, rfl, rfl⟩

theorem within_afterRead (s : State) (w : Width) (a : Word) (hr : ∀ x, q x x) : Within l q b s (afterRead s w a) := by
  unfold afterRead; split
  · exact ⟨fun _ _ => ⟨rfl, rfl⟩, hr _, fun _ _ => rfl, rfl, rfl, rfl, rfl, rfl, rfl, rfl⟩
  · exact .refl (hr _)

theorem keeps_memRead (w : Width) (a : Word) (hr : ∀ x, q x x) : Keeps l q b (memRead w a) := fun s t e => by
  rcases memRead_cases s w a with h | h | h <;> rcases e with ⟨_, e⟩ | ⟨_, e⟩ <;> rw [h] at e <;> cases e
  · exact within_afterRead s w a hr
  · exact .refl (hr _)
  · exact .refl (hr _)

theorem within_afterWrite (s : State) (w : Width) (a v : Word) (hr : ∀ x, q x x) (hb : ∀ c ∈ bytesAt w a, b c) :
    Within l q b s (afterWrite s w a v) := by
  refine ⟨fun _ _ => ?_, ?_, fun c hc => byteAt_afterWrite_other s w a v c fun m => hc (hb c m), ?_, ?_, ?_, ?_, ?_, ?_,
    ?_⟩ <;> unfold afterWrite <;> split <;> cases w <;>
    first | exact ⟨rfl, rfl⟩ | exact hr _ | rfl

theorem keeps_memWrite (w : Width) (a v : Word) (hr : ∀ x, q x x) (hb : ∀ c ∈ bytesAt w a, b c) :
    Keeps l q b (memWrite w a v) := fun s t e => by
  rcases memWrite_cases s w a v with h | h | h <;> rcases e with ⟨_, e⟩ | ⟨_, e⟩ <;> rw [h] at e <;> cases e
  · exact within_afterWrite s w a v hr hb
  · exact .refl (hr _)
  · exact .refl (hr _)

/-! ### Fetch, stack, operands -/

variable (hr : ∀ x, q x x) (ht : ∀ x y z, q x y → q y z → q x z)
include hr ht

theorem keeps_fetchWord (h : Reg.r7 ∈ l) : Keeps l q b fetchWord :=
  (keeps_readReg _ hr).bind ht fun _ => (keeps_memRead _ _ hr).bind ht fun _ =>
    (keeps_writeReg _ _ hr h).bind ht fun _ => keeps_pure _ hr

theorem keeps_pop (h : Reg.r6 ∈ l) : Keeps l q b pop :=
  (keeps_readReg _ hr).bind ht fun _ => (keeps_memRead _ _ hr).bind ht fun _ =>
    (keeps_writeReg _ _ hr h).bind ht fun _ => keeps_pure _ hr

/-- Resolution changes only the registers its mode steps, the PC of an extension word among them. -/
theorem keeps_resolveEA (o : Specifier) (w : Width) (h : ∀ r ∈ steppedBy o, r ∈ l) : Keeps l q b (resolveEA o w) := by
  obtain ⟨m, r⟩ := o
  cases m <;> simp only [steppedBy, List.mem_singleton, forall_eq] at h
  · exact keeps_pure _ hr
  · exact keeps_readReg _ hr
  · exact (keeps_readReg _ hr).bind ht fun _ => (keeps_writeReg _ _ hr h).bind ht fun _ => keeps_pure _ hr
  · exact (keeps_readReg _ hr).bind ht fun _ => (keeps_writeReg _ _ hr h).bind ht fun _ => keeps_memRead _ _ hr
  · exact (keeps_readReg _ hr).bind ht fun _ => (keeps_writeReg _ _ hr h).bind ht fun _ => keeps_pure _ hr
  · exact (keeps_readReg _ hr).bind ht fun _ => (keeps_writeReg _ _ hr h).bind ht fun _ => keeps_memRead _ _ hr
  · exact (keeps_fetchWord hr ht h).bind ht fun _ => (keeps_readReg _ hr).bind ht fun _ => keeps_pure _ hr
  · exact (keeps_fetchWord hr ht h).bind ht fun _ => (keeps_readReg _ hr).bind ht fun _ => keeps_memRead _ _ hr

theorem keeps_resolve (o : Specifier) (w : Width) (h : ∀ r ∈ steppedBy o, r ∈ l) : Keeps l q b (resolve o w) := by
  unfold resolve; split
  · exact keeps_pure _ hr
  · exact (keeps_resolveEA hr ht o w h).bind ht fun _ => keeps_pure _ hr

theorem keeps_resolveJump (o : Specifier) (h : ∀ r ∈ steppedBy o, r ∈ l) : Keeps l q b (resolveJump o) := by
  unfold resolveJump; split
  · exact keeps_raise _ hr
  · exact keeps_resolveEA hr ht o .word h

theorem keeps_readOp (op : Operand) (w : Width) : Keeps l q b (readOp op w) := by
  cases op
  · exact (keeps_readReg _ hr).bind ht fun _ => keeps_pure _ hr
  · exact keeps_memRead _ _ hr

/-- Writing an operand changes its register, or the bytes of the width at its address. -/
theorem keeps_writeOp (op : Operand) (w : Width) (v : Word) (hl : ∀ r, op = .reg r → r ∈ l)
    (hb : ∀ ea, op = .mem ea → ∀ c ∈ bytesAt w ea, b c) : Keeps l q b (writeOp op w v) := by
  cases op
  · cases w
    · exact (keeps_readReg _ hr).bind ht fun _ => keeps_writeReg _ _ hr (hl _ rfl)
    · exact keeps_writeReg _ _ hr (hl _ rfl)
  · exact keeps_memWrite _ _ _ hr (hb _ rfl)

omit ht in
theorem keeps_writeOpSext (op : Operand) (v : Word) (hl : ∀ r, op = .reg r → r ∈ l)
    (hb : ∀ ea, op = .mem ea → ∀ c ∈ bytesAt .byte ea, b c) : Keeps l q b (writeOpSext op v) := by
  cases op
  · exact keeps_writeReg _ _ hr (hl _ rfl)
  · exact keeps_memWrite _ _ _ hr (hb _ rfl)

omit ht in
theorem keeps_unimplemented (k : Stub) : Keeps l q b (unimplemented k) := by
  refine .of_same hr fun s t e => ?_
  cases h : s.params.unimplPolicy <;> rcases e with ⟨_, e⟩ | ⟨_, e⟩ <;>
    simp only [unimplemented, bind_apply, get_apply, h, pure_apply, raise_apply] at e <;> cases e <;> rfl

end pieces

/-- A pattern leaves PSW bits 15-4 alone. -/
theorem sameHigh_applyPattern (p : Pattern) (x : Word) : sameHigh x (applyPattern p x) := by
  unfold sameHigh applyPattern
  ext i hi
  simp only [BitVec.getElem_extractLsb', BitVec.getLsbD_append]
  simp [show ¬ 4 + i < 1 by omega, hi]

/-- A resolved specifier is a register only in mode 0. -/
theorem resolve_reg {s t : State} {o : Specifier} {w : Width} {r : Reg} (h : resolve o w s = .ok (.reg r) t) :
    namedBy o = [r] := by
  obtain ⟨m, p⟩ := o
  cases m <;> simp only [resolve, pure_apply, bind_apply] at h
  · cases h; rfl
  all_goals split at h <;> cases h

end Sys2Proof.Machine
end

