-- ==== Sys2Proof/Laws/PerInstr.lean ====
section
/-! SUPPORT. One fact for every constructor of `Instr`, about the instruction as syntax: the spelling a constructor
stands for is settled, is the decoder's own, and has the constructor's word (30_encoding.md R145, R138). -/

namespace Sys2Proof.Laws.CoreSpelling

open Sys2Proof

/-- What a constructor stands for stands for itself, is no alias, and is encoded by the same word. -/
def Statement (i : Instr) : Prop :=
  i.core.core = i.core ∧ i.core.isAlias = false ∧ encodeWord i.core = encodeWord i

theorem br (off : BitVec 8) : Statement (.br off) := ⟨rfl, rfl, rfl⟩
theorem bne (off : BitVec 8) : Statement (.bne off) := ⟨rfl, rfl, rfl⟩
theorem beq (off : BitVec 8) : Statement (.beq off) := ⟨rfl, rfl, rfl⟩
theorem bge (off : BitVec 8) : Statement (.bge off) := ⟨rfl, rfl, rfl⟩
theorem blt (off : BitVec 8) : Statement (.blt off) := ⟨rfl, rfl, rfl⟩
theorem bgt (off : BitVec 8) : Statement (.bgt off) := ⟨rfl, rfl, rfl⟩
theorem ble (off : BitVec 8) : Statement (.ble off) := ⟨rfl, rfl, rfl⟩
theorem bpl (off : BitVec 8) : Statement (.bpl off) := ⟨rfl, rfl, rfl⟩
theorem bmi (off : BitVec 8) : Statement (.bmi off) := ⟨rfl, rfl, rfl⟩
theorem bhi (off : BitVec 8) : Statement (.bhi off) := ⟨rfl, rfl, rfl⟩
theorem blos (off : BitVec 8) : Statement (.blos off) := ⟨rfl, rfl, rfl⟩
theorem bvc (off : BitVec 8) : Statement (.bvc off) := ⟨rfl, rfl, rfl⟩
theorem bvs (off : BitVec 8) : Statement (.bvs off) := ⟨rfl, rfl, rfl⟩
theorem bcc (off : BitVec 8) : Statement (.bcc off) := ⟨rfl, rfl, rfl⟩
theorem bcs (off : BitVec 8) : Statement (.bcs off) := ⟨rfl, rfl, rfl⟩
theorem bhis (off : BitVec 8) : Statement (.bhis off) := ⟨rfl, rfl, rfl⟩
theorem blo (off : BitVec 8) : Statement (.blo off) := ⟨rfl, rfl, rfl⟩
theorem cx (mask : BitVec 4) : Statement (.cx mask) := ⟨rfl, rfl, rfl⟩
theorem sx (mask : BitVec 4) : Statement (.sx mask) := ⟨rfl, rfl, rfl⟩
theorem clc : Statement (.clc) := ⟨rfl, rfl, rfl⟩
theorem clv : Statement (.clv) := ⟨rfl, rfl, rfl⟩
theorem clz : Statement (.clz) := ⟨rfl, rfl, rfl⟩
theorem cln : Statement (.cln) := ⟨rfl, rfl, rfl⟩
theorem ccc : Statement (.ccc) := ⟨rfl, rfl, rfl⟩
theorem sec : Statement (.sec) := ⟨rfl, rfl, rfl⟩
theorem sev : Statement (.sev) := ⟨rfl, rfl, rfl⟩
theorem sez : Statement (.sez) := ⟨rfl, rfl, rfl⟩
theorem sen : Statement (.sen) := ⟨rfl, rfl, rfl⟩
theorem scc : Statement (.scc) := ⟨rfl, rfl, rfl⟩
theorem halt : Statement (.halt) := ⟨rfl, rfl, rfl⟩
theorem wait : Statement (.wait) := ⟨rfl, rfl, rfl⟩
theorem rti : Statement (.rti) := ⟨rfl, rfl, rfl⟩
theorem bpt : Statement (.bpt) := ⟨rfl, rfl, rfl⟩
theorem iot : Statement (.iot) := ⟨rfl, rfl, rfl⟩
theorem reset : Statement (.reset) := ⟨rfl, rfl, rfl⟩
theorem rtt : Statement (.rtt) := ⟨rfl, rfl, rfl⟩
theorem nop : Statement (.nop) := ⟨rfl, rfl, rfl⟩
theorem jmp (dst : Specifier) : Statement (.jmp dst) := ⟨rfl, rfl, rfl⟩
theorem swab (dst : Specifier) : Statement (.swab dst) := ⟨rfl, rfl, rfl⟩
theorem clr (dst : Specifier) : Statement (.clr dst) := ⟨rfl, rfl, rfl⟩
theorem com (dst : Specifier) : Statement (.com dst) := ⟨rfl, rfl, rfl⟩
theorem inc (dst : Specifier) : Statement (.inc dst) := ⟨rfl, rfl, rfl⟩
theorem dec (dst : Specifier) : Statement (.dec dst) := ⟨rfl, rfl, rfl⟩
theorem neg (dst : Specifier) : Statement (.neg dst) := ⟨rfl, rfl, rfl⟩
theorem adc (dst : Specifier) : Statement (.adc dst) := ⟨rfl, rfl, rfl⟩
theorem sbc (dst : Specifier) : Statement (.sbc dst) := ⟨rfl, rfl, rfl⟩
theorem tst (dst : Specifier) : Statement (.tst dst) := ⟨rfl, rfl, rfl⟩
theorem ror (dst : Specifier) : Statement (.ror dst) := ⟨rfl, rfl, rfl⟩
theorem rol (dst : Specifier) : Statement (.rol dst) := ⟨rfl, rfl, rfl⟩
theorem asr (dst : Specifier) : Statement (.asr dst) := ⟨rfl, rfl, rfl⟩
theorem asl (dst : Specifier) : Statement (.asl dst) := ⟨rfl, rfl, rfl⟩
theorem mfpi (src : Specifier) : Statement (.mfpi src) := ⟨rfl, rfl, rfl⟩
theorem mtpi (dst : Specifier) : Statement (.mtpi dst) := ⟨rfl, rfl, rfl⟩
theorem sxt (dst : Specifier) : Statement (.sxt dst) := ⟨rfl, rfl, rfl⟩
theorem clrb (dst : Specifier) : Statement (.clrb dst) := ⟨rfl, rfl, rfl⟩
theorem comb (dst : Specifier) : Statement (.comb dst) := ⟨rfl, rfl, rfl⟩
theorem incb (dst : Specifier) : Statement (.incb dst) := ⟨rfl, rfl, rfl⟩
theorem decb (dst : Specifier) : Statement (.decb dst) := ⟨rfl, rfl, rfl⟩
theorem negb (dst : Specifier) : Statement (.negb dst) := ⟨rfl, rfl, rfl⟩
theorem adcb (dst : Specifier) : Statement (.adcb dst) := ⟨rfl, rfl, rfl⟩
theorem sbcb (dst : Specifier) : Statement (.sbcb dst) := ⟨rfl, rfl, rfl⟩
theorem tstb (dst : Specifier) : Statement (.tstb dst) := ⟨rfl, rfl, rfl⟩
theorem rorb (dst : Specifier) : Statement (.rorb dst) := ⟨rfl, rfl, rfl⟩
theorem rolb (dst : Specifier) : Statement (.rolb dst) := ⟨rfl, rfl, rfl⟩
theorem asrb (dst : Specifier) : Statement (.asrb dst) := ⟨rfl, rfl, rfl⟩
theorem aslb (dst : Specifier) : Statement (.aslb dst) := ⟨rfl, rfl, rfl⟩
theorem mfpd (src : Specifier) : Statement (.mfpd src) := ⟨rfl, rfl, rfl⟩
theorem mtpd (dst : Specifier) : Statement (.mtpd dst) := ⟨rfl, rfl, rfl⟩
theorem mul (r : Reg) (src : Specifier) : Statement (.mul r src) := ⟨rfl, rfl, rfl⟩
theorem div (r : Reg) (src : Specifier) : Statement (.div r src) := ⟨rfl, rfl, rfl⟩
theorem ash (r : Reg) (src : Specifier) : Statement (.ash r src) := ⟨rfl, rfl, rfl⟩
theorem ashc (r : Reg) (src : Specifier) : Statement (.ashc r src) := ⟨rfl, rfl, rfl⟩
theorem xor (r : Reg) (dst : Specifier) : Statement (.xor r dst) := ⟨rfl, rfl, rfl⟩
theorem sob (r : Reg) (nn : BitVec 6) : Statement (.sob r nn) := ⟨rfl, rfl, rfl⟩
theorem mov (src : Specifier) (dst : Specifier) : Statement (.mov src dst) := ⟨rfl, rfl, rfl⟩
theorem cmp (src : Specifier) (dst : Specifier) : Statement (.cmp src dst) := ⟨rfl, rfl, rfl⟩
theorem bit (src : Specifier) (dst : Specifier) : Statement (.bit src dst) := ⟨rfl, rfl, rfl⟩
theorem bic (src : Specifier) (dst : Specifier) : Statement (.bic src dst) := ⟨rfl, rfl, rfl⟩
theorem bis (src : Specifier) (dst : Specifier) : Statement (.bis src dst) := ⟨rfl, rfl, rfl⟩
theorem add (src : Specifier) (dst : Specifier) : Statement (.add src dst) := ⟨rfl, rfl, rfl⟩
theorem movb (src : Specifier) (dst : Specifier) : Statement (.movb src dst) := ⟨rfl, rfl, rfl⟩
theorem cmpb (src : Specifier) (dst : Specifier) : Statement (.cmpb src dst) := ⟨rfl, rfl, rfl⟩
theorem bitb (src : Specifier) (dst : Specifier) : Statement (.bitb src dst) := ⟨rfl, rfl, rfl⟩
theorem bicb (src : Specifier) (dst : Specifier) : Statement (.bicb src dst) := ⟨rfl, rfl, rfl⟩
theorem bisb (src : Specifier) (dst : Specifier) : Statement (.bisb src dst) := ⟨rfl, rfl, rfl⟩
theorem sub (src : Specifier) (dst : Specifier) : Statement (.sub src dst) := ⟨rfl, rfl, rfl⟩
theorem jsr (r : Reg) (dst : Specifier) : Statement (.jsr r dst) := ⟨rfl, rfl, rfl⟩
theorem rts (r : Reg) : Statement (.rts r) := ⟨rfl, rfl, rfl⟩
theorem mark (nn : BitVec 6) : Statement (.mark nn) := ⟨rfl, rfl, rfl⟩

end Sys2Proof.Laws.CoreSpelling
end

