-- ==== Sys2Proof/Laws/RunControl.lean ====
section
/-! SUPPORT. What the run loop and the host's calls of Machine/RunControl.lean do, one lemma for each. -/

namespace Sys2Proof.Machine

open Sys2Proof

@[simp] theorem getRun_eq (s : State) : getRun s = s.runFlag := rfl
@[simp] theorem applyCalls_nil (s : State) : applyCalls [] s = s := rfl
@[simp] theorem applyCalls_cons (b : Bool) (l : List Bool) (s : State) :
    applyCalls (b :: l) s = applyCalls l (setRun b s) := rfl
@[simp] theorem setRun_false (s : State) : setRun false s = { s with runFlag := false } := rfl
@[simp] theorem setRun_true (s : State) : setRun true s = { resume s with runFlag := true } := rfl

@[simp] theorem runWith_nil (s : State) : runWith [] s = .next s := rfl

/-- A slot whose calls leave the Run Flag clear ends the run there. -/
theorem runWith_cleared {calls : List Bool} {rest : List (List Bool)} {s : State}
    (h : (applyCalls calls s).runFlag = false) : runWith (calls :: rest) s = .next (applyCalls calls s) := by
  simp [runWith, h]

/-- A slot whose calls leave the Run Flag set runs one cycle, and the loop goes on while it returns true. -/
theorem runWith_cycle {calls : List Bool} {rest : List (List Bool)} {s t : State}
    (h : (applyCalls calls s).runFlag = true) (hs : step (applyCalls calls s) = .next t) :
    runWith (calls :: rest) s = if continues t then runWith rest t else .next t := by
  simp [runWith, h, hs]

@[simp] theorem runLimit_zero (s : State) : runLimit 0 s = .next s := rfl

/-- `run(limit + 1)` is one cycle, if the Run Flag is set, then `run(limit)` while the cycle returns true (R406). -/
theorem runLimit_succ (n : Nat) (s : State) :
    runLimit (n + 1) s = if getRun s then
      match step s with
      | .next t => if continues t then runLimit n t else .next t
      | .fault f => .fault f
      | .refused r => .refused r
    else .next s := rfl

/-- A run with a limit, disturbed by no call, that ends of itself is one course of `run()`. -/
theorem runReturns_of_runLimit {n : Nat} {s t : State} (h : runLimit n s = .next t)
    (ht : getRun t = false ∨ continues t = false) : RunReturns s t := ⟨_, h, ht⟩

/-- A cycle of a core stopped by a fault changes nothing (R412). -/
theorem step_faultStopped {s : State} (hl : launchRefusal s = none) (h : faultStopped s = true) : step s = .next s := by
  simp only [step, hl, h, if_true]

/-- A core stopped by a fault takes no cycle in any course of calls: only its Run Flag can change (R412). -/
theorem runWith_faultStopped {f : Fault} (calls : List (List Bool)) {s : State} (hl : launchRefusal s = none)
    (h : s.execState = .stopped (.fault f)) : ∃ b, runWith calls s = .next { s with runFlag := b } := by
  have key : ∀ (l : List Bool) (b : Bool), ∃ c, applyCalls l { s with runFlag := b } = { s with runFlag := c } := by
    intro l
    induction l with
    | nil => exact fun b => ⟨b, rfl⟩
    | cons x l ih =>
      intro b
      cases x
      · simpa using ih false
      · have : resume ({ s with runFlag := b } : State) = { s with runFlag := b } := by simp [resume, h]
        simpa [this] using ih true
  cases calls with
  | nil => exact ⟨s.runFlag, rfl⟩
  | cons l rest =>
    obtain ⟨c, hc⟩ := key l s.runFlag
    refine ⟨c, ?_⟩
    have hs : step ({ s with runFlag := c } : State) = .next { s with runFlag := c } :=
      step_faultStopped hl (by simp only [faultStopped, h])
    have he : applyCalls l s = { s with runFlag := c } := hc
    by_cases hb : c = true
    · rw [runWith_cycle (by rw [he]; exact hb) (by rw [he]; exact hs)]; simp [continues, h]
    · rw [runWith_cleared (by rw [he]; simpa using hb), he]

/-! ### The host's writes -/

theorem hostWriteMem_ok {s : State} {w : Width} {a v : Word} (h : hostMayWrite s = true) (ha : aligned w a = true)
    (hb : busFree s = true) : hostWriteMem w a v s = .next (afterWrite s w a v) := by
  have : ¬ (w = .word ∧ isOddAddr a) := by rintro ⟨rfl, h⟩; simp [aligned, h] at ha
  simp only [hostWriteMem, h, this, if_true, if_false, finish_ok (memWrite_ok ha hb)]

theorem hostWriteMem_odd {s : State} {a v : Word} (h : hostMayWrite s = true) (ha : isOddAddr a = true) :
    hostWriteMem .word a v s = .refused .illegalHostAccess := by
  simp [hostWriteMem, h, ha]

theorem hostWritePsw_ok {s : State} {v : Word} (h : hostMayWrite s = true) :
    hostWritePsw v s = .next { s with psw := v } := by
  simp [hostWritePsw, h]

/-! ### Reset -/

@[simp] theorem resetCore_draws (m : Memory) (s : State) : (resetCore m s).draws = s.draws := rfl
@[simp] theorem resetCore_devCalls (m : Memory) (s : State) : (resetCore m s).devCalls = s.devCalls := rfl

/-- A reset is the launch of the same core, but for the two fields that only count and record. -/
theorem resetCore_eq (m : Memory) (s : State) :
    ({ resetCore m s with draws := 0, devCalls := [] } : State) = State.launch s.params m s.devRead s.devWrite := rfl

end Sys2Proof.Machine
end

