-- ==== Sys2Proof/Tests/Slice0.lean ====
section
/-! SUPPORT. The model's own tests: the WellFormed smoke, every constructor's decoding from a word written out from the
spec's encoding (30_encoding.md R114, R131 to R137), steps whose results are the vectors of 95_test_vectors.md (named in
each comment), and for each obligation with hypotheses a concrete state and operands that meet them. -/

namespace Sys2Proof.Tests

open Sys2Proof Sys2Proof.Machine Sys2Proof.Claims

/-! ### Helpers -/

/-- Words stored from an address on. -/
def poke (s : State) : Word → List Word → State
  | _, [] => s
  | a, v :: rest => poke (s.arrayWrite .word a v) (a + 2) rest

/-- The start of a vector: words at 1000 octal, the PC there, the named registers written, no other. -/
def start (words : List Word) (regs : List (Reg × Word)) (psw : Word) (mem : List (Word × Word)) : State :=
  let s := poke State.reset 0o1000 words
  let s := mem.foldl (fun s c => s.arrayWrite .word c.1 c.2) s
  let s := regs.foldl (fun s c => s.setReg c.1 c.2) (s.setReg .r7 0o1000)
  { s with psw := psw }

/-- What one step leaves: some registers, the PSW, the PC, whether the core is Ready. -/
def after (s : State) (rs : List Reg) : Option (List Word × Word × Word × Bool) :=
  match step s with
  | .next t => some (rs.map t.reg, t.psw, t.reg .r7, continues t)
  | .fault _ | .refused _ => none

/-- The words one step leaves in memory. -/
def cells (s : State) (l : List Word) : Option (List Word) :=
  match step s with
  | .next t => some (l.map (t.arrayRead .word))
  | .fault _ | .refused _ => none

/-- Where and why one step stops the core, and the Run Flag. -/
def stops (s : State) : Option (ExecState × Word × Bool) :=
  match step s with
  | .next t => some (t.execState, t.reg .r7, t.runFlag)
  | .fault _ | .refused _ => none

/-- The PSW an instruction leaves, run on its own. -/
def pswAfter (i : Instr) (p : Word) : Option Word :=
  match exec i { State.reset with psw := p } with
  | .next t => some t.psw
  | .fault _ | .refused _ => none

/-- The PC an instruction leaves, run on its own with the PC at 1002 octal. -/
def pcAfter (i : Instr) (p : Word) : Option Word :=
  match exec i { State.reset.setReg .r7 0o1002 with psw := p } with
  | .next t => some (t.reg .r7)
  | .fault _ | .refused _ => none

/-- The outcome is a next state. -/
def isNext (o : Host.Outcome State Fault Refusal) : Bool :=
  match o with
  | .next _ => true
  | .fault _ | .refused _ => false

/-- The state of an outcome that is a next state. -/
def nextOr (o : Host.Outcome State Fault Refusal) (s : State) : State :=
  match o with
  | .next t => t
  | .fault _ | .refused _ => s

/-! ### WellFormed: each check refuses an ill-formed term -/

theorem test_wf_alias : (Instr.clc).wellFormed = false := by decide
theorem test_wf_nop : (Instr.nop).wellFormed = false := by decide
theorem test_wf_bhis : (Instr.bhis 1).wellFormed = false := by decide
theorem test_wf_jmp_register : (Instr.jmp ⟨.register, .r0⟩).wellFormed = false := by decide
theorem test_wf_jsr_register : (Instr.jsr .r5 ⟨.register, .r0⟩).wellFormed = false := by decide
theorem test_wf_div_odd : (Instr.div .r1 ⟨.register, .r2⟩).wellFormed = false := by decide
theorem test_wf_good : (Instr.div .r0 ⟨.register, .r2⟩).wellFormed = true := by decide

/-! ### Decoding: words written out from the tables of 30_encoding.md -/

theorem test_decode_br : decodeWord 0b00000001_10000001 = .ok (.br 0b10000001) := by decide
theorem test_decode_bne : decodeWord 0b00000010_10000001 = .ok (.bne 0b10000001) := by decide
theorem test_decode_beq : decodeWord 0b00000011_10000001 = .ok (.beq 0b10000001) := by decide
theorem test_decode_bge : decodeWord 0b00000100_10000001 = .ok (.bge 0b10000001) := by decide
theorem test_decode_blt : decodeWord 0b00000101_10000001 = .ok (.blt 0b10000001) := by decide
theorem test_decode_bgt : decodeWord 0b00000110_10000001 = .ok (.bgt 0b10000001) := by decide
theorem test_decode_ble : decodeWord 0b00000111_10000001 = .ok (.ble 0b10000001) := by decide
theorem test_decode_bpl : decodeWord 0b10000000_10000001 = .ok (.bpl 0b10000001) := by decide
theorem test_decode_bmi : decodeWord 0b10000001_10000001 = .ok (.bmi 0b10000001) := by decide
theorem test_decode_bhi : decodeWord 0b10000010_10000001 = .ok (.bhi 0b10000001) := by decide
theorem test_decode_blos : decodeWord 0b10000011_10000001 = .ok (.blos 0b10000001) := by decide
theorem test_decode_bvc : decodeWord 0b10000100_10000001 = .ok (.bvc 0b10000001) := by decide
theorem test_decode_bvs : decodeWord 0b10000101_10000001 = .ok (.bvs 0b10000001) := by decide
theorem test_decode_bcc : decodeWord 0b10000110_10000001 = .ok (.bcc 0b10000001) := by decide
theorem test_decode_bcs : decodeWord 0b10000111_10000001 = .ok (.bcs 0b10000001) := by decide
theorem test_decode_cx : decodeWord 0b000000001010_0101 = .ok (.cx 0b0101) := by decide
theorem test_decode_sx : decodeWord 0b000000001011_1010 = .ok (.sx 0b1010) := by decide
theorem test_decode_halt : decodeWord 0b0000000000000_000 = .ok (.halt) := by decide
theorem test_decode_wait : decodeWord 0b0000000000000_001 = .ok (.wait) := by decide
theorem test_decode_rti : decodeWord 0b0000000000000_010 = .ok (.rti) := by decide
theorem test_decode_bpt : decodeWord 0b0000000000000_011 = .ok (.bpt) := by decide
theorem test_decode_iot : decodeWord 0b0000000000000_100 = .ok (.iot) := by decide
theorem test_decode_reset : decodeWord 0b0000000000000_101 = .ok (.reset) := by decide
theorem test_decode_rtt : decodeWord 0b0000000000000_110 = .ok (.rtt) := by decide
theorem test_decode_nop : decodeWord 0b0000000010100000 = .ok (.cx 0) := by decide
theorem test_decode_jmp : decodeWord 0b0_000000001_101_100 = .ok (.jmp ⟨.autoDecDeferred, .r4⟩) := by decide
theorem test_decode_swab : decodeWord 0b0_000000011_101_100 = .ok (.swab ⟨.autoDecDeferred, .r4⟩) := by decide
theorem test_decode_clr : decodeWord 0b0_000101000_101_100 = .ok (.clr ⟨.autoDecDeferred, .r4⟩) := by decide
theorem test_decode_com : decodeWord 0b0_000101001_101_100 = .ok (.com ⟨.autoDecDeferred, .r4⟩) := by decide
theorem test_decode_inc : decodeWord 0b0_000101010_101_100 = .ok (.inc ⟨.autoDecDeferred, .r4⟩) := by decide
theorem test_decode_dec : decodeWord 0b0_000101011_101_100 = .ok (.dec ⟨.autoDecDeferred, .r4⟩) := by decide
theorem test_decode_neg : decodeWord 0b0_000101100_101_100 = .ok (.neg ⟨.autoDecDeferred, .r4⟩) := by decide
theorem test_decode_adc : decodeWord 0b0_000101101_101_100 = .ok (.adc ⟨.autoDecDeferred, .r4⟩) := by decide
theorem test_decode_sbc : decodeWord 0b0_000101110_101_100 = .ok (.sbc ⟨.autoDecDeferred, .r4⟩) := by decide
theorem test_decode_tst : decodeWord 0b0_000101111_101_100 = .ok (.tst ⟨.autoDecDeferred, .r4⟩) := by decide
theorem test_decode_ror : decodeWord 0b0_000110000_101_100 = .ok (.ror ⟨.autoDecDeferred, .r4⟩) := by decide
theorem test_decode_rol : decodeWord 0b0_000110001_101_100 = .ok (.rol ⟨.autoDecDeferred, .r4⟩) := by decide
theorem test_decode_asr : decodeWord 0b0_000110010_101_100 = .ok (.asr ⟨.autoDecDeferred, .r4⟩) := by decide
theorem test_decode_asl : decodeWord 0b0_000110011_101_100 = .ok (.asl ⟨.autoDecDeferred, .r4⟩) := by decide
theorem test_decode_mfpi : decodeWord 0b0_000110101_101_100 = .ok (.mfpi ⟨.autoDecDeferred, .r4⟩) := by decide
theorem test_decode_mtpi : decodeWord 0b0_000110110_101_100 = .ok (.mtpi ⟨.autoDecDeferred, .r4⟩) := by decide
theorem test_decode_sxt : decodeWord 0b0_000110111_101_100 = .ok (.sxt ⟨.autoDecDeferred, .r4⟩) := by decide
theorem test_decode_clrb : decodeWord 0b1_000101000_101_100 = .ok (.clrb ⟨.autoDecDeferred, .r4⟩) := by decide
theorem test_decode_comb : decodeWord 0b1_000101001_101_100 = .ok (.comb ⟨.autoDecDeferred, .r4⟩) := by decide
theorem test_decode_incb : decodeWord 0b1_000101010_101_100 = .ok (.incb ⟨.autoDecDeferred, .r4⟩) := by decide
theorem test_decode_decb : decodeWord 0b1_000101011_101_100 = .ok (.decb ⟨.autoDecDeferred, .r4⟩) := by decide
theorem test_decode_negb : decodeWord 0b1_000101100_101_100 = .ok (.negb ⟨.autoDecDeferred, .r4⟩) := by decide
theorem test_decode_adcb : decodeWord 0b1_000101101_101_100 = .ok (.adcb ⟨.autoDecDeferred, .r4⟩) := by decide
theorem test_decode_sbcb : decodeWord 0b1_000101110_101_100 = .ok (.sbcb ⟨.autoDecDeferred, .r4⟩) := by decide
theorem test_decode_tstb : decodeWord 0b1_000101111_101_100 = .ok (.tstb ⟨.autoDecDeferred, .r4⟩) := by decide
theorem test_decode_rorb : decodeWord 0b1_000110000_101_100 = .ok (.rorb ⟨.autoDecDeferred, .r4⟩) := by decide
theorem test_decode_rolb : decodeWord 0b1_000110001_101_100 = .ok (.rolb ⟨.autoDecDeferred, .r4⟩) := by decide
theorem test_decode_asrb : decodeWord 0b1_000110010_101_100 = .ok (.asrb ⟨.autoDecDeferred, .r4⟩) := by decide
theorem test_decode_aslb : decodeWord 0b1_000110011_101_100 = .ok (.aslb ⟨.autoDecDeferred, .r4⟩) := by decide
theorem test_decode_mfpd : decodeWord 0b1_000110101_101_100 = .ok (.mfpd ⟨.autoDecDeferred, .r4⟩) := by decide
theorem test_decode_mtpd : decodeWord 0b1_000110110_101_100 = .ok (.mtpd ⟨.autoDecDeferred, .r4⟩) := by decide
theorem test_decode_mul : decodeWord 0b0111000_010_101_100 = .ok (.mul .r2 ⟨.autoDecDeferred, .r4⟩) := by decide
theorem test_decode_div : decodeWord 0b0111001_010_101_100 = .ok (.div .r2 ⟨.autoDecDeferred, .r4⟩) := by decide
theorem test_decode_ash : decodeWord 0b0111010_010_101_100 = .ok (.ash .r2 ⟨.autoDecDeferred, .r4⟩) := by decide
theorem test_decode_ashc : decodeWord 0b0111011_010_101_100 = .ok (.ashc .r2 ⟨.autoDecDeferred, .r4⟩) := by decide
theorem test_decode_xor : decodeWord 0b0111100_010_101_100 = .ok (.xor .r2 ⟨.autoDecDeferred, .r4⟩) := by decide
theorem test_decode_sob : decodeWord 0b0111111_011_110001 = .ok (.sob .r3 0b110001) := by decide
theorem test_decode_mov : decodeWord 0b0001_110_000_100_110 = .ok (.mov ⟨.index, .r0⟩ ⟨.autoDec, .r6⟩) := by decide
theorem test_decode_cmp : decodeWord 0b0010_110_000_100_110 = .ok (.cmp ⟨.index, .r0⟩ ⟨.autoDec, .r6⟩) := by decide
theorem test_decode_bit : decodeWord 0b0011_110_000_100_110 = .ok (.bit ⟨.index, .r0⟩ ⟨.autoDec, .r6⟩) := by decide
theorem test_decode_bic : decodeWord 0b0100_110_000_100_110 = .ok (.bic ⟨.index, .r0⟩ ⟨.autoDec, .r6⟩) := by decide
theorem test_decode_bis : decodeWord 0b0101_110_000_100_110 = .ok (.bis ⟨.index, .r0⟩ ⟨.autoDec, .r6⟩) := by decide
theorem test_decode_add : decodeWord 0b0110_110_000_100_110 = .ok (.add ⟨.index, .r0⟩ ⟨.autoDec, .r6⟩) := by decide
theorem test_decode_movb : decodeWord 0b1001_110_000_100_110 = .ok (.movb ⟨.index, .r0⟩ ⟨.autoDec, .r6⟩) := by decide
theorem test_decode_cmpb : decodeWord 0b1010_110_000_100_110 = .ok (.cmpb ⟨.index, .r0⟩ ⟨.autoDec, .r6⟩) := by decide
theorem test_decode_bitb : decodeWord 0b1011_110_000_100_110 = .ok (.bitb ⟨.index, .r0⟩ ⟨.autoDec, .r6⟩) := by decide
theorem test_decode_bicb : decodeWord 0b1100_110_000_100_110 = .ok (.bicb ⟨.index, .r0⟩ ⟨.autoDec, .r6⟩) := by decide
theorem test_decode_bisb : decodeWord 0b1101_110_000_100_110 = .ok (.bisb ⟨.index, .r0⟩ ⟨.autoDec, .r6⟩) := by decide
theorem test_decode_sub : decodeWord 0b1110_110_000_100_110 = .ok (.sub ⟨.index, .r0⟩ ⟨.autoDec, .r6⟩) := by decide
theorem test_decode_jsr : decodeWord 0b0000100_101_110_111 = .ok (.jsr .r5 ⟨.index, .r7⟩) := by decide
theorem test_decode_rts : decodeWord 0b0000000010000_011 = .ok (.rts .r3) := by decide
theorem test_decode_mark : decodeWord 0b0000110100_101101 = .ok (.mark 0b101101) := by decide

/-- Words of the "none" rows of R139 are rejected by name, and so are too few bytes. -/
theorem test_decode_none : decodeWord 0o000007 = .error (.unknownOpcode 0o7) ∧
    decodeWord 0o000210 = .error (.unknownOpcode 0o210) ∧ decodeWord 0o007000 = .error (.unknownOpcode 0o7000) ∧
    decodeWord 0o075000 = .error (.unknownOpcode 0o75000) ∧ decodeWord 0o104000 = .error (.unknownOpcode 0o104000) ∧
    decodeWord 0o106400 = .error (.unknownOpcode 0o106400) ∧ decodeWord 0o106777 = .error (.unknownOpcode 0o106777) ∧
    decodeWord 0o170000 = .error (.unknownOpcode 0o170000) := by decide
theorem test_decode_short : decodeBytes [0x42] = .error .truncated := by decide
theorem test_decode_bytes : decodeBytes [0o300, 0o025, 7] = .ok (.mov ⟨.autoInc, .r7⟩ ⟨.register, .r0⟩, [7]) := by decide
/-- The alias spellings have the words of R145. -/
theorem test_encode_aliases : [Instr.clc, .clv, .clz, .cln, .ccc, .sec, .sev, .sez, .sen, .scc, .nop].map encodeWord =
    [0o241, 0o242, 0o244, 0o250, 0o257, 0o261, 0o262, 0o264, 0o270, 0o277, 0o240] := by decide
theorem test_decodeTableWord : decodeTableWord 16 0o012700 = some (.mov ⟨.autoInc, .r7⟩ ⟨.register, .r0⟩) := by decide

/-! ### One step of each instruction: the vectors of 95_test_vectors.md -/

/-- VB21. -/
theorem test_br : after (start [0o000600] [] 0 []) [] =
    some ([], 0, 0o402, true) := by decide
/-- VB2. -/
theorem test_bne : after (start [0o001004] [] 0 []) [] =
    some ([], 0, 0o1012, true) := by decide
/-- VB3. -/
theorem test_bne_not : after (start [0o001004] [] 0o4 []) [] =
    some ([], 0o4, 0o1002, true) := by decide
/-- VB4. -/
theorem test_beq : after (start [0o001404] [] 0o4 []) [] =
    some ([], 0o4, 0o1012, true) := by decide
/-- VB5. -/
theorem test_bge : after (start [0o002004] [] 0o12 []) [] =
    some ([], 0o12, 0o1012, true) := by decide
/-- VB6. -/
theorem test_bge_not : after (start [0o002004] [] 0o10 []) [] =
    some ([], 0o10, 0o1002, true) := by decide
/-- VB7. -/
theorem test_blt : after (start [0o002404] [] 0o2 []) [] =
    some ([], 0o2, 0o1012, true) := by decide
/-- VB8. -/
theorem test_bgt : after (start [0o003004] [] 0 []) [] =
    some ([], 0, 0o1012, true) := by decide
/-- VB9. -/
theorem test_bgt_not : after (start [0o003004] [] 0o4 []) [] =
    some ([], 0o4, 0o1002, true) := by decide
/-- VB10. -/
theorem test_ble : after (start [0o003404] [] 0o4 []) [] =
    some ([], 0o4, 0o1012, true) := by decide
/-- VB11. -/
theorem test_bpl : after (start [0o100004] [] 0 []) [] =
    some ([], 0, 0o1012, true) := by decide
/-- VB12. -/
theorem test_bmi : after (start [0o100404] [] 0o10 []) [] =
    some ([], 0o10, 0o1012, true) := by decide
/-- VB13. -/
theorem test_bhi : after (start [0o101004] [] 0 []) [] =
    some ([], 0, 0o1012, true) := by decide
/-- VB14. -/
theorem test_bhi_not : after (start [0o101004] [] 0o4 []) [] =
    some ([], 0o4, 0o1002, true) := by decide
/-- VB15. -/
theorem test_blos : after (start [0o101404] [] 0o1 []) [] =
    some ([], 0o1, 0o1012, true) := by decide
/-- VB16. -/
theorem test_bvc : after (start [0o102004] [] 0 []) [] =
    some ([], 0, 0o1012, true) := by decide
/-- VB17. -/
theorem test_bvs : after (start [0o102404] [] 0o2 []) [] =
    some ([], 0o2, 0o1012, true) := by decide
/-- VB18. -/
theorem test_bcc : after (start [0o103004] [] 0 []) [] =
    some ([], 0, 0o1012, true) := by decide
/-- VB19. -/
theorem test_bcs : after (start [0o103404] [] 0o1 []) [] =
    some ([], 0o1, 0o1012, true) := by decide
/-- VB18, VB19. -/
theorem test_bhis : pcAfter (.bhis 4) 0 = some 0o1012 ∧ pcAfter (.bhis 4) 1 = some 0o1002 := by decide
/-- VB19, VB18. -/
theorem test_blo : pcAfter (.blo 4) 1 = some 0o1012 ∧ pcAfter (.blo 4) 0 = some 0o1002 := by decide
/-- VB24. -/
theorem test_br_self : stops (start [0o000777] [] 0 []) =
    some (.stopped (.fault (.noProgress 0o1000)), 0o1000, false) := by decide
/-- VC3. -/
theorem test_cx : after (start [0o000243] [] 0o17 []) [] =
    some ([], 0o14, 0o1002, true) := by decide
/-- VC4, VN11. -/
theorem test_cx_nop : after (start [0o000240] [] 0o17 []) [] =
    some ([], 0o17, 0o1002, true) := by decide
/-- VC8. -/
theorem test_sx : after (start [0o000274] [] 0 []) [] =
    some ([], 0o14, 0o1002, true) := by decide
/-- VC7. -/
theorem test_sx_empty : after (start [0o000260] [] 0o5 []) [] =
    some ([], 0o5, 0o1002, true) := by decide
/-- VC1. -/
theorem test_clc : pswAfter .clc 0o17 = some 0o16 := by decide
/-- R371. -/
theorem test_clv : pswAfter .clv 0o17 = some 0o15 := by decide
/-- R371. -/
theorem test_clz : pswAfter .clz 0o17 = some 0o13 := by decide
/-- R371. -/
theorem test_cln : pswAfter .cln 0o17 = some 0o7 := by decide
/-- VC2, W11. -/
theorem test_ccc : pswAfter .ccc 0o357 = some 0o340 := by decide
/-- R372. -/
theorem test_sec : pswAfter .sec 0o340 = some 0o341 := by decide
/-- VC5. -/
theorem test_sev : pswAfter .sev 0o340 = some 0o342 := by decide
/-- R372. -/
theorem test_sez : pswAfter .sez 0o340 = some 0o344 := by decide
/-- R372. -/
theorem test_sen : pswAfter .sen 0o340 = some 0o350 := by decide
/-- VC6. -/
theorem test_scc : pswAfter .scc 0o340 = some 0o357 := by decide
/-- VN11. -/
theorem test_nop : pswAfter .nop 0o17 = some 0o17 := by decide
/-- VN1. -/
theorem test_halt : stops (start [0o000000] [] 0 []) =
    some (.stopped (.halt), 0o1002, false) := by decide
/-- VN2. -/
theorem test_wait : stops (start [0o000001] [] 0 []) =
    some (.stopped (.wait), 0o1002, false) := by decide
/-- VN3. -/
theorem test_rti : after (start [0o000002] [(.r6, 0o776)] 0 [(0o776, 0o1234), (0o1000, 0o000002)]) [.r6] =
    some ([0o1002], 0o2, 0o1234, true) := by decide
/-- VN4. -/
theorem test_rti_odd : stops (start [0o000002] [(.r6, 0o701)] 0 []) =
    some (.stopped (.fault (.busFault .oddAddress 0o701)), 0o1002, false) := by decide
/-- VN5. -/
theorem test_bpt : after (start [0o000003] [(.r6, 0o1000)] 0o1 [(0o14, 0o2000), (0o16, 0o340)]) [.r6] =
    some ([0o774], 0o340, 0o2000, true) := by decide
/-- VN5. -/
theorem test_bpt_stack : cells (start [0o000003] [(.r6, 0o1000)] 0o1 [(0o14, 0o2000), (0o16, 0o340)]) [0o776, 0o774] =
    some [0o1, 0o1002] := by decide
/-- VN6. -/
theorem test_iot : after (start [0o000004] [(.r6, 0o700)] 0 [(0o20, 0o3000), (0o22, 0o4)]) [.r6] =
    some ([0o674], 0o4, 0o3000, true) := by decide
/-- VN7. -/
theorem test_iot_odd : stops (start [0o000004] [(.r6, 0o701)] 0 []) =
    some (.stopped (.fault (.busFault .oddAddress 0o677)), 0o1002, false) := by decide
/-- VN8. -/
theorem test_reset : after (start [0o000005] [(.r0, 0o7)] 0o17 []) [.r0] =
    some ([0o7], 0o17, 0o1002, true) := by decide
/-- VN10. -/
theorem test_rtt : after (start [0o000006] [(.r6, 0o776)] 0 [(0o776, 0o1234), (0o1000, 0o000006)]) [.r6] =
    some ([0o1002], 0o6, 0o1234, true) := by decide
/-- VS1. -/
theorem test_swab : after (start [0o000300] [(.r0, 0o001234)] 0 []) [.r0] =
    some ([0o116002], 0b0000, 0o1002, true) := by decide
/-- VS2. -/
theorem test_swab_low : after (start [0o000300] [(.r0, 0o377)] 0 []) [.r0] =
    some ([0o177400], 0b0100, 0o1002, true) := by decide
/-- VS3. -/
theorem test_sxt : after (start [0o006700] [(.r0, 0o5)] 0o10 []) [.r0] =
    some ([0o177777], 0b1000, 0o1002, true) := by decide
/-- VS4. -/
theorem test_sxt_zero : after (start [0o006700] [(.r0, 0o1234)] 0 []) [.r0] =
    some ([0], 0b0100, 0o1002, true) := by decide
/-- W12. -/
theorem test_clr : after (start [0o005000] [(.r0, 0o1234)] 0o17 []) [.r0] =
    some ([0], 0b0100, 0o1002, true) := by decide
/-- VS5. -/
theorem test_clrb : after (start [0o105000] [(.r0, 0o177777)] 0 []) [.r0] =
    some ([0o177400], 0b0100, 0o1002, true) := by decide
/-- VS6. -/
theorem test_com : after (start [0o005100] [(.r0, 0o17)] 0 []) [.r0] =
    some ([0o177760], 0b1001, 0o1002, true) := by decide
/-- VS7. -/
theorem test_comb : after (start [0o105100] [(.r0, 0o177400)] 0 []) [.r0] =
    some ([0o177777], 0b1001, 0o1002, true) := by decide
/-- VS9. -/
theorem test_tst : after (start [0o005700] [(.r0, 0)] 0o3 []) [.r0] =
    some ([0], 0b0100, 0o1002, true) := by decide
/-- VS8. -/
theorem test_tstb : after (start [0o105700] [(.r0, 0o200)] 0 []) [.r0] =
    some ([0o200], 0b1000, 0o1002, true) := by decide
/-- VS10. -/
theorem test_inc : after (start [0o005200] [(.r0, 0o077777)] 0 []) [.r0] =
    some ([0o100000], 0b1010, 0o1002, true) := by decide
/-- VS11. -/
theorem test_inc_wrap : after (start [0o005200] [(.r0, 0o177777)] 0 []) [.r0] =
    some ([0], 0b0100, 0o1002, true) := by decide
/-- VS12. -/
theorem test_incb : after (start [0o105200] [(.r0, 0o177)] 0 []) [.r0] =
    some ([0o200], 0b1010, 0o1002, true) := by decide
/-- VS15. -/
theorem test_dec : after (start [0o005300] [(.r0, 0o100000)] 0 []) [.r0] =
    some ([0o077777], 0b0010, 0o1002, true) := by decide
/-- VS14. -/
theorem test_dec_wrap : after (start [0o005300] [(.r0, 0)] 0 []) [.r0] =
    some ([0o177777], 0b1000, 0o1002, true) := by decide
/-- R268. -/
theorem test_decb : after (start [0o105300] [(.r0, 0o400)] 0 []) [.r0] =
    some ([0o777], 0b1000, 0o1002, true) := by decide
/-- VS18. -/
theorem test_neg : after (start [0o005400] [(.r0, 0o100000)] 0 []) [.r0] =
    some ([0o100000], 0b1011, 0o1002, true) := by decide
/-- VS17. -/
theorem test_neg_zero : after (start [0o005400] [(.r0, 0)] 0 []) [.r0] =
    some ([0], 0b0100, 0o1002, true) := by decide
/-- VS19. -/
theorem test_negb : after (start [0o105400] [(.r0, 0o200)] 0 []) [.r0] =
    some ([0o200], 0b1011, 0o1002, true) := by decide
/-- VS20. -/
theorem test_adc : after (start [0o005500] [(.r0, 0o177777)] 0o1 []) [.r0] =
    some ([0], 0b0101, 0o1002, true) := by decide
/-- VS22. -/
theorem test_adc_overflow : after (start [0o005500] [(.r0, 0o077777)] 0o1 []) [.r0] =
    some ([0o100000], 0b1010, 0o1002, true) := by decide
/-- R270. -/
theorem test_adcb : after (start [0o105500] [(.r0, 0o777)] 0o1 []) [.r0] =
    some ([0o400], 0b0101, 0o1002, true) := by decide
/-- VS23. -/
theorem test_sbc : after (start [0o005600] [(.r0, 0)] 0o1 []) [.r0] =
    some ([0o177777], 0b1001, 0o1002, true) := by decide
/-- VS24. -/
theorem test_sbc_overflow : after (start [0o005600] [(.r0, 0o100000)] 0o1 []) [.r0] =
    some ([0o077777], 0b0010, 0o1002, true) := by decide
/-- R271. -/
theorem test_sbcb : after (start [0o105600] [(.r0, 0o400)] 0o1 []) [.r0] =
    some ([0o777], 0b1001, 0o1002, true) := by decide
/-- VS26. -/
theorem test_ror : after (start [0o006000] [(.r0, 0o3)] 0 []) [.r0] =
    some ([0o1], 0b0011, 0o1002, true) := by decide
/-- VS27. -/
theorem test_rorb : after (start [0o106000] [(.r0, 0o1)] 0o1 []) [.r0] =
    some ([0o200], 0b1001, 0o1002, true) := by decide
/-- VS28. -/
theorem test_rol : after (start [0o006100] [(.r0, 0o100001)] 0 []) [.r0] =
    some ([0o2], 0b0011, 0o1002, true) := by decide
/-- VS29. -/
theorem test_rol_carry : after (start [0o006100] [(.r0, 0)] 0o1 []) [.r0] =
    some ([0o1], 0b0000, 0o1002, true) := by decide
/-- VS30. -/
theorem test_rolb : after (start [0o106100] [(.r0, 0o200)] 0 []) [.r0] =
    some ([0], 0b0111, 0o1002, true) := by decide
/-- VS31. -/
theorem test_asr : after (start [0o006200] [(.r0, 0o100002)] 0 []) [.r0] =
    some ([0o140001], 0b1010, 0o1002, true) := by decide
/-- VS32. -/
theorem test_asr_out : after (start [0o006200] [(.r0, 0o1)] 0 []) [.r0] =
    some ([0], 0b0111, 0o1002, true) := by decide
/-- VS33. -/
theorem test_asrb : after (start [0o106200] [(.r0, 0o201)] 0 []) [.r0] =
    some ([0o300], 0b1001, 0o1002, true) := by decide
/-- VS34. -/
theorem test_asl : after (start [0o006300] [(.r0, 0o040000)] 0 []) [.r0] =
    some ([0o100000], 0b1010, 0o1002, true) := by decide
/-- VS35. -/
theorem test_asl_out : after (start [0o006300] [(.r0, 0o100000)] 0 []) [.r0] =
    some ([0], 0b0111, 0o1002, true) := by decide
/-- R275. -/
theorem test_aslb : after (start [0o106300] [(.r0, 0o700)] 0 []) [.r0] =
    some ([0o600], 0b1001, 0o1002, true) := by decide
/-- Log 1: INC of a register that nothing has written runs and marks it. VS36 stops it there by R32: the state is one
where the instruction reads an unmarked register. -/
theorem test_inc_unwritten : (fun t : State => (t.execState, t.written .r0))
    (nextOr (step (start [0o005200] [] 0 [])) State.reset) = (.ready, true) ∧
    allWritten (start [0o005200] [] 0 []) (registersRead (.inc ⟨.register, .r0⟩)) = false := by decide
/-- VS37. -/
theorem test_mfpi : after (start [0o006501] [] 0 []) [] =
    some ([], 0, 0o1002, true) := by decide
/-- VS38. -/
theorem test_mfpi_index : after (start [0o006567, 0o000010] [] 0 []) [] =
    some ([], 0, 0o1002, true) := by decide
/-- VS39. -/
theorem test_mtpi : after (start [0o006601] [] 0 []) [] =
    some ([], 0, 0o1002, true) := by decide
/-- VS39. -/
theorem test_mfpd : after (start [0o106501] [] 0 []) [] =
    some ([], 0, 0o1002, true) := by decide
/-- VS39. -/
theorem test_mtpd : after (start [0o106601] [] 0 []) [] =
    some ([], 0, 0o1002, true) := by decide
/-- VS25: V is the free value, the rest is fixed. -/
theorem test_sbc_open : (nextOr (step (start [0o005600] [(.r0, 0o100000)] 0 [])) State.reset).reg .r0 = 0o100000 ∧
    (nextOr (step (start [0o005600] [(.r0, 0o100000)] 0 [])) State.reset).psw &&& 0o15 = 0o10 := by
  constructor
  · decide
  · show applyPattern ⟨some true, some false, some (Config.freeFlag 0), some false⟩ 0 &&& 0o15 = 0o10
    generalize Config.freeFlag 0 = v
    cases v <;> decide
/-- VA33. -/
theorem test_jmp_register : stops (start [0o000100] [(.r0, 0o2000)] 0 []) =
    some (.stopped (.fault (.illegalJumpMode ⟨.register, .r0⟩)), 0o1002, false) := by decide
/-- VA35. -/
theorem test_jmp : after (start [0o000131] [(.r1, 0o2000)] 0 [(0o2000, 0o3000), (0o2002, 0o2222), (0o2004, 0o3004), (0o3000, 0o4444), (0o3004, 0o5555)]) [.r1] =
    some ([0o2002], 0, 0o3000, true) := by decide
/-- VA1. -/
theorem test_mode1 : after (start [0o011001] [(.r0, 0o2000)] 0 [(0o2000, 0o3000), (0o2002, 0o2222), (0o2004, 0o3004), (0o3000, 0o4444), (0o3004, 0o5555)]) [.r0, .r1] =
    some ([0o2000, 0o3000], 0, 0o1002, true) := by decide
/-- VA2. -/
theorem test_mode2 : after (start [0o012001] [(.r0, 0o2000)] 0 [(0o2000, 0o3000), (0o2002, 0o2222), (0o2004, 0o3004), (0o3000, 0o4444), (0o3004, 0o5555)]) [.r0, .r1] =
    some ([0o2002, 0o3000], 0, 0o1002, true) := by decide
/-- VA4. -/
theorem test_mode2_byte_sp : after (start [0o112601] [(.r6, 0o2000)] 0 [(0o2000, 0o3000), (0o2002, 0o2222), (0o2004, 0o3004), (0o3000, 0o4444), (0o3004, 0o5555)]) [.r6, .r1] =
    some ([0o2002, 0], 0o4, 0o1002, true) := by decide
/-- VA5. -/
theorem test_mode3 : after (start [0o013001] [(.r0, 0o2000)] 0 [(0o2000, 0o3000), (0o2002, 0o2222), (0o2004, 0o3004), (0o3000, 0o4444), (0o3004, 0o5555)]) [.r0, .r1] =
    some ([0o2002, 0o4444], 0, 0o1002, true) := by decide
/-- VA7. -/
theorem test_mode4_byte : after (start [0o114001] [(.r0, 0o2001)] 0 [(0o2000, 0o3000), (0o2002, 0o2222), (0o2004, 0o3004), (0o3000, 0o4444), (0o3004, 0o5555)]) [.r0, .r1] =
    some ([0o2000, 0], 0o4, 0o1002, true) := by decide
/-- VA8. -/
theorem test_mode5 : after (start [0o015001] [(.r0, 0o2002)] 0 [(0o2000, 0o3000), (0o2002, 0o2222), (0o2004, 0o3004), (0o3000, 0o4444), (0o3004, 0o5555)]) [.r0, .r1] =
    some ([0o2000, 0o4444], 0, 0o1002, true) := by decide
/-- VA10. -/
theorem test_mode6 : after (start [0o016001, 0o177776] [(.r0, 0o2004)] 0 [(0o2000, 0o3000), (0o2002, 0o2222), (0o2004, 0o3004), (0o3000, 0o4444), (0o3004, 0o5555)]) [.r1] =
    some ([0o2222], 0, 0o1004, true) := by decide
/-- VA11. -/
theorem test_mode7 : after (start [0o017001, 0o000004] [(.r0, 0o2000)] 0 [(0o2000, 0o3000), (0o2002, 0o2222), (0o2004, 0o3004), (0o3000, 0o4444), (0o3004, 0o5555)]) [.r1] =
    some ([0o5555], 0, 0o1004, true) := by decide
/-- VA13. -/
theorem test_absolute : after (start [0o013701, 0o002000] [] 0 [(0o2000, 0o3000), (0o2002, 0o2222), (0o2004, 0o3004), (0o3000, 0o4444), (0o3004, 0o5555)]) [.r1] =
    some ([0o3000], 0, 0o1004, true) := by decide
/-- VA14. -/
theorem test_relative : after (start [0o016701, 0o000774] [] 0 [(0o2000, 0o3000), (0o2002, 0o2222), (0o2004, 0o3004), (0o3000, 0o4444), (0o3004, 0o5555)]) [.r1] =
    some ([0o3000], 0, 0o1004, true) := by decide
/-- VA15. -/
theorem test_relative_deferred : after (start [0o017701, 0o000774] [] 0 [(0o2000, 0o3000), (0o2002, 0o2222), (0o2004, 0o3004), (0o3000, 0o4444), (0o3004, 0o5555)]) [.r1] =
    some ([0o4444], 0, 0o1004, true) := by decide
/-- VA18. -/
theorem test_pc_operand : after (start [0o010700] [] 0 [(0o2000, 0o3000), (0o2002, 0o2222), (0o2004, 0o3004), (0o3000, 0o4444), (0o3004, 0o5555)]) [.r0] =
    some ([0o1002], 0, 0o1002, true) := by decide
/-- VA30. -/
theorem test_same_register : after (start [0o012000] [(.r0, 0o2000)] 0 [(0o2000, 0o3000), (0o2002, 0o2222), (0o2004, 0o3004), (0o3000, 0o4444), (0o3004, 0o5555)]) [.r0] =
    some ([0o3000], 0, 0o1002, true) := by decide
/-- VA21. -/
theorem test_odd_source : stops (start [0o013701, 0o002001] [] 0 [(0o2000, 0o3000), (0o2002, 0o2222), (0o2004, 0o3004), (0o3000, 0o4444), (0o3004, 0o5555)]) =
    some (.stopped (.fault (.busFault .oddAddress 0o2001)), 0o1004, false) := by decide
/-- VA22: the step stands. -/
theorem test_odd_pointer : after (start [0o013001] [(.r0, 0o2001)] 0 [(0o2000, 0o3000), (0o2002, 0o2222), (0o2004, 0o3004), (0o3000, 0o4444), (0o3004, 0o5555)]) [.r0] =
    some ([0o2003], 0, 0o1002, false) := by decide
/-- VA17. -/
theorem test_pc_predecrement : stops (start [0o014701] [] 0 []) =
    some (.stopped (.fault (.noProgress 0o1000)), 0o1000, false) := by decide
/-- VA31. -/
theorem test_two_steps : cells (start [0o062121] [(.r1, 0o2000)] 0 [(0o2000, 0o3000), (0o2002, 0o2222), (0o2004, 0o3004), (0o3000, 0o4444), (0o3004, 0o5555)]) [0o2002, 0o2000] =
    some [0o5222, 0o3000] := by decide
/-- VA29. -/
theorem test_mov_r0_r0inc : cells (start [0o010020] [(.r0, 0o2000)] 0 [(0o2000, 0o3000), (0o2002, 0o2222), (0o2004, 0o3004), (0o3000, 0o4444), (0o3004, 0o5555)]) [0o2000] =
    some [0o2000] := by decide
/-- VR2. -/
theorem test_mul : after (start [0o070001] [(.r0, 0o100000), (.r1, 0o100000)] 0 []) [.r0, .r1] =
    some ([0o40000, 0], 0o1, 0o1002, true) := by decide
/-- VR5. -/
theorem test_mul_odd : after (start [0o070101] [(.r1, 0o400)] 0 []) [.r1] =
    some ([0], 0o1, 0o1002, true) := by decide
/-- VR7. -/
theorem test_div : after (start [0o071002] [(.r0, 0o177777), (.r1, 0o177771), (.r2, 0o2)] 0 []) [.r0, .r1] =
    some ([0o177775, 0o177777], 0o10, 0o1002, true) := by decide
/-- VR12. -/
theorem test_div_odd : stops (start [0o071102] [(.r1, 0o1), (.r2, 0o1)] 0 []) =
    some (.stopped (.fault (.undefinedOperation 0o071102)), 0o1002, false) := by decide
/-- VR16. -/
theorem test_ash : after (start [0o072001] [(.r0, 0o1), (.r1, 0o17)] 0 []) [.r0] =
    some ([0o100000], 0o12, 0o1002, true) := by decide
/-- VR14. -/
theorem test_ash_right : after (start [0o072001] [(.r0, 0o100001), (.r1, 0o77)] 0 []) [.r0] =
    some ([0o140000], 0o11, 0o1002, true) := by decide
/-- VR23. -/
theorem test_ashc : after (start [0o073002] [(.r0, 0o100000), (.r1, 0o1), (.r2, 0o77)] 0 []) [.r0, .r1] =
    some ([0o140000, 0], 0o11, 0o1002, true) := by decide
/-- VR24. -/
theorem test_ashc_odd : after (start [0o073102] [(.r1, 0o1), (.r2, 0o77)] 0 []) [.r1] =
    some ([0o100000], 0o1, 0o1002, true) := by decide
/-- VR25. -/
theorem test_xor : after (start [0o074001] [(.r0, 0o125252), (.r1, 0o177777)] 0 []) [.r1] =
    some ([0o052525], 0, 0o1002, true) := by decide
/-- VA32. -/
theorem test_xor_step : cells (start [0o074020] [(.r0, 0o2000)] 0 [(0o2000, 0o3000), (0o2002, 0o2222), (0o2004, 0o3004), (0o3000, 0o4444), (0o3004, 0o5555)]) [0o2000] =
    some [0o1000] := by decide
/-- VR29. -/
theorem test_sob : after (start [0o077003] [(.r0, 0)] 0 []) [.r0] =
    some ([0o177777], 0, 0o774, true) := by decide
/-- VR32. -/
theorem test_sob_pc : after (start [0o077703] [] 0 []) [] =
    some ([], 0, 0o773, true) := by decide
/-- VD19. -/
theorem test_mov : after (start [0o012700, 0o000000] [] 0o1 []) [.r0] =
    some ([0], 0o5, 0o1004, true) := by decide
/-- VA19. -/
theorem test_mov_two_index : cells (start [0o016061, 0o000002, 0o000004] [(.r0, 0o2000), (.r1, 0o3000)] 0 [(0o2000, 0o3000), (0o2002, 0o2222), (0o2004, 0o3004), (0o3000, 0o4444), (0o3004, 0o5555)]) [0o3004] =
    some [0o2222] := by decide
/-- VD2. -/
theorem test_movb : after (start [0o112700, 0o000200] [(.r0, 0o12345)] 0 []) [.r0] =
    some ([0o177600], 0o10, 0o1004, true) := by decide
/-- VD3. -/
theorem test_movb_odd : cells (start [0o110037, 0o002001] [(.r0, 0o123)] 0 [(0o2000, 0o177777)]) [0o2000] =
    some [0o051777] := by decide
/-- VD5. -/
theorem test_cmp : after (start [0o020001] [(.r0, 0o100000), (.r1, 0o1)] 0 []) [.r0, .r1] =
    some ([0o100000, 0o1], 0o2, 0o1002, true) := by decide
/-- VD4. -/
theorem test_cmp_borrow : after (start [0o020102] [(.r1, 0o5), (.r2, 0o7)] 0 []) [.r1, .r2] =
    some ([0o5, 0o7], 0o11, 0o1002, true) := by decide
/-- VD7. -/
theorem test_cmpb : after (start [0o120001] [(.r0, 0o377), (.r1, 0o1)] 0 []) [.r0] =
    some ([0o377], 0o10, 0o1002, true) := by decide
/-- VD8. -/
theorem test_bit : after (start [0o032700, 0o000001] [(.r0, 0o6)] 0 []) [.r0] =
    some ([0o6], 0o4, 0o1004, true) := by decide
/-- R343. -/
theorem test_bitb : after (start [0o130001] [(.r0, 0o377), (.r1, 0o200)] 0o1 []) [.r1] =
    some ([0o200], 0o11, 0o1002, true) := by decide
/-- VD9. -/
theorem test_bic : after (start [0o040102] [(.r1, 0o125252), (.r2, 0o177777)] 0 []) [.r2] =
    some ([0o052525], 0, 0o1002, true) := by decide
/-- VD10. -/
theorem test_bicb : after (start [0o140102] [(.r1, 0o125252), (.r2, 0o177777)] 0 []) [.r2] =
    some ([0o177525], 0, 0o1002, true) := by decide
/-- VD11. -/
theorem test_bis : after (start [0o050102] [(.r1, 0o100), (.r2, 0o1)] 0 []) [.r2] =
    some ([0o101], 0, 0o1002, true) := by decide
/-- VA24. -/
theorem test_bisb : after (start [0o150001] [(.r0, 0o200), (.r1, 0o177000)] 0 []) [.r1] =
    some ([0o177200], 0o10, 0o1002, true) := by decide
/-- VD14. -/
theorem test_add : after (start [0o060001] [(.r0, 0o100000), (.r1, 0o100000)] 0 []) [.r1] =
    some ([0], 0o7, 0o1002, true) := by decide
/-- VD16. -/
theorem test_sub : after (start [0o160001] [(.r0, 0o1), (.r1, 0o100000)] 0 []) [.r1] =
    some ([0o077777], 0o2, 0o1002, true) := by decide
/-- VD15. -/
theorem test_sub_borrow : after (start [0o160102] [(.r1, 0o1), (.r2, 0)] 0 []) [.r2] =
    some ([0o177777], 0o11, 0o1002, true) := by decide
/-- VD18: the step stands. -/
theorem test_mov_odd_destination : after (start [0o012112] [(.r1, 0o2000), (.r2, 0o3001)] 0 [(0o2000, 0o3000), (0o2002, 0o2222), (0o2004, 0o3004), (0o3000, 0o4444), (0o3004, 0o5555)]) [.r1] =
    some ([0o2002], 0, 0o1002, false) := by decide
/-- VO1. -/
theorem test_jsr : after (start [0o004577, 0o000006] [(.r6, 0o700), (.r5, 0o123)] 0 [(0o1012, 0o2000)]) [.r6, .r5] =
    some ([0o676, 0o1004], 0, 0o2000, true) := by decide
/-- VO6. -/
theorem test_jsr_sp : cells (start [0o004637, 0o002000] [(.r6, 0o700)] 0 []) [0o676] =
    some [0o700] := by decide
/-- VO9. -/
theorem test_rts : after (start [0o000206] [(.r6, 0o2000)] 0 [(0o2000, 0o3000)]) [.r6] =
    some ([0o3000], 0, 0o2000, true) := by decide
/-- VO8: the PC is written. -/
theorem test_rts_odd : after (start [0o000205] [(.r5, 0o3000), (.r6, 0o701)] 0 []) [.r5, .r6] =
    some ([0o3000, 0o701], 0, 0o3000, false) := by decide
/-- VO10. -/
theorem test_mark : after (start [0o006402] [(.r6, 0o700), (.r5, 0o1)] 0 []) [.r6, .r5] =
    some ([0o700, 0o1], 0, 0o1002, true) := by decide
/-- VF1. -/
theorem test_unknown : stops (start [0o104000] [] 0 []) =
    some (.stopped (.fault (.unknownOpcode 0o104000 0o1000)), 0o1002, false) := by decide
/-- VN9, VS40, VO11: the stubs under UNIMPL_POLICY = Fault. -/
theorem test_stub_fault :
    let s := { State.reset with params := { Params.default with unimplPolicy := .fault } }
    [Instr.reset, .mark 2, .mfpi ⟨.register, .r1⟩].map (fun i => (nextOr (exec i s) State.reset).execState) =
      [.stopped (.fault (.unimplemented .reset)), .stopped (.fault (.unimplemented .mark)),
       .stopped (.fault (.unimplemented .mfpi))] := by decide
/-- Log 2: a core whose PC nothing wrote fetches at the value it holds. VF7 stops it there by R32. -/
theorem test_pc_unwritten : State.reset.written .r7 = false ∧ stops State.reset = some (.stopped .halt, 2, false) := by decide
/-- VF9: a fetch at the top of memory wraps the PC. -/
theorem test_fetch_wraps : after ((start [] [] 0 [(0o177776, 0o240)]).setReg .r7 0o177776) [] = some ([], 0, 0, true) := by
  decide
/-- VF12: CLRB of a routed address calls the writer once and no reader. -/
theorem test_device_write :
    (nextOr (step { start [0o105037, 0o177566] [] 0 [] with devRead := [0o177566], devWrite := [0o177566] })
      State.reset).devCalls = [⟨.write, 0o177566, .byte, 0⟩] := by decide
/-- VF11: a byte read at the odd address of a routed word calls the reader with that address. -/
theorem test_device_read :
    ((nextOr (step { start [0o105737, 0o177561] [] 0 [] with devRead := [0o177560] }) State.reset).devCalls.map
      fun c => (c.dir, c.addr, c.width)) = [(.read, 0o177561, .byte)] := by decide
/-- R7: another address width is refused. -/
theorem test_address_width :
    step { State.reset with params := { Params.default with addrBits := 18 } } = .refused (.addressWidth 18) := rfl
/-- VF13: the loader. -/
theorem test_load : (fun t : State => (t.arrayRead .word 0o1000, t.arrayRead .word 0o1002, t.reg .r7, t.written .r0))
    (nextOr (loadWords [0o012700, 5, 0] 0o1000 State.reset) State.reset) = (0o012700, 5, 0o1000, false) := by decide
/-- P5, VF2: a fault stop is sticky. -/
theorem test_sticky : step (State.reset.stop (.fault (.noProgress 0))) = .next (State.reset.stop (.fault (.noProgress 0))) :=
  rfl
/-- VF8: the instruction in progress completes, the run ends before the next, the core stays Ready. -/
theorem test_cancelled_run : (fun t : State => (t.reg .r0, t.reg .r7, continues t, getRun t))
    (nextOr (runWith [[], [false], []] { start [0o005200, 0o005200] [(.r0, 7)] 0 [] with runFlag := true }) State.reset) =
      (0o10, 0o1002, true, false) := by decide
/-- VF2: `run(5)` of a core stopped by a fault leaves it, the Run Flag set. -/
theorem test_run_sticky :
    let s : State := { start [0o104000] [] 0 [] with execState := .stopped (.fault (.unknownOpcode 0o104000 0o1000)), runFlag := true }
    runLimit 5 s = .next s := rfl
/-- R411: the host writes the PSW of a stopped core, and of no other once it has started. -/
theorem test_host_psw : hostWritePsw 0o177777 (State.reset.stop .halt) = .next { State.reset.stop .halt with psw := 0o177777 } ∧
    hostWritePsw 0 { State.reset with started := true } = .refused .hostWhileRunning :=
  ⟨rfl, rfl⟩
/-- Log 21: a host word write at an odd address is refused, a byte write there is made. -/
theorem test_host_odd : hostWriteMem .word 0o2001 1 (State.reset.stop .halt) = .refused .illegalHostAccess ∧
    ((nextOr (hostWriteMem .byte 0o2001 1 (State.reset.stop .halt)) State.reset).byteAt 0o2001 = 1) :=
  ⟨rfl, by decide⟩
/-- VF14, log 22: a reset leaves a fault stop; the counter of free values goes on. -/
theorem test_reset_core : (fun t : State => (t.execState, t.psw, t.draws, t.written .r7))
    (resetCore [] { (State.reset.setReg .r7 2).stop (.fault (.noProgress 0)) with draws := 3 }) = (.ready, 0, 3, false) := by decide
/-- The instruction the host places is the next one run, as the first after reset. -/
theorem test_withFetchWord : after (State.reset.withFetchWord 16 0o000277) [] = some ([], 0o17, 2, true) := by decide

/-! ### Every claim with hypotheses has a state and operands that meet them -/

/-- All registers written, SP 700, R0 2000 (a word address that holds 3000), R1 3000, R2 5, R3 100000, N = 0, C = 1. -/
def demo : State := start [0o005200] [(.r0, 0o2000), (.r1, 0o3000), (.r2, 5), (.r3, 0o100000), (.r4, 1), (.r5, 0o123), (.r6, 0o700)]
  1 [(0o2000, 0o3000), (0o3000, 0o4444), (0o700, 0o1234), (0o702, 0o17)]

/-- The same with a device at 177560 that reads and writes, and R1 at it. -/
def demoDevice : State := { demo.setReg .r1 0o177560 with devRead := [0o177560], devWrite := [0o177560] }

/-- The same with an odd SP and an odd R0. -/
def demoOdd : State := (demo.setReg .r6 0o701).setReg .r0 0o2001

theorem witness_EncodingADecodedWordGivesTheWord : decodeWord 0o177776 ≠ .ok .halt ∧ decodeWord 0o160102 =
    .ok (.sub ⟨.register, .r1⟩ ⟨.register, .r2⟩) := by decide
theorem witness_OnlyTheNopWordIsClaimedTwice : (Family.noOperand.decode 0o240).isSome = true ∧
    (Family.conditionCode.decode 0o240).isSome = true ∧ Family.noOperand ≠ Family.conditionCode := by decide
theorem witness_StepKeepsTheInvariant : Inv demoDevice ∧ isNext (step demoDevice) = true :=
  ⟨⟨by decide, by decide, by decide, by decide⟩, by decide⟩
theorem witness_ArrayWritesAreLittleEndian :
    demo.mem.wf = true ∧
    busFree demo = true ∧
    demo.routedWrite 0o177776 = false ∧
    demo.routedRead 0o177776 = false ∧
    isOddAddr 0o177776 = false ∧
    isOddAddr 0o177777 = true := by decide
theorem witness_BusReadsRouteByWordAddress :
    busFree demoDevice = true ∧
    ((0o177561 &&& 0o177776 : Word) ∈ demoDevice.devRead) ∧
    ((0o177557 &&& 0o177776 : Word) ∉ demoDevice.devRead) ∧
    isOddAddr 0o177560 = false := by decide
theorem witness_RoutedWritesBypassTheArray :
    busFree demoDevice = true ∧
    isOddAddr 0o177560 = false ∧
    ((0o177561 &&& 0o177776 : Word) ∈ demoDevice.devWrite) := by decide
theorem witness_OddWordAccessesRaise :
    isOddAddr 0o177777 = true ∧
    isOddAddr ((demo.setReg .r7 0o177777).reg .r7) = true ∧
    isOddAddr (demoOdd.reg .r6) = true := by decide
/-- INC R0 with R0 and the PC written and R1 not. -/
theorem witness_UnwrittenRegistersHaveNoInfluence :
    let s := start [0o005200] [(.r0, 7)] 0 []
    s.written .r1 = false ∧ s.written .r7 = true ∧ allWritten s (registersRead (.inc ⟨.register, .r0⟩)) = true ∧
    decodeWord (fetchValue (beginCycle s)) = .ok (.inc ⟨.register, .r0⟩) ∧ isNext (exec (.inc ⟨.register, .r0⟩) s) = true ∧
    isNext (step s) = true := by decide
theorem witness_RegisterModesResolve :
    busFree demo = true ∧
    isOddAddr (demo.reg .r0) = false ∧
    isOddAddr (demo.reg .r7) = false := by decide
theorem witness_IndexModesResolve :
    fetchReady demo = true ∧
    isOddAddr (demo.reg .r3 + busValue demo .word (demo.reg .r7)) = false ∧
    isOddAddr (demo.reg .r7 + 2 + busValue demo .word (demo.reg .r7)) = false := by decide
/-- Odd pointers, before and after an extension word. -/
theorem witness_ResolutionRaisesAfterItsSteps :
    isOddAddr (demoOdd.reg .r0) = true ∧ isOddAddr ((demo.setReg .r7 0o1001).reg .r7) = true ∧ fetchReady demo = true ∧
    isOddAddr (demo.reg .r5 + busValue demo .word (demo.reg .r7)) = true ∧ fetchReady (start [1] [] 0 []) = true ∧
    isOddAddr (0o1002 + busValue (start [1] [] 0 []) .word ((start [1] [] 0 []).reg .r7)) = true := by decide
/-- The hypotheses of StopsWhereItsOperandRaises and StopsWhereEitherOperandRaises: each piece raises somewhere. -/
theorem witness_StopsWhereItsOperandRaises :
    (∃ f t, resolveEA ⟨.autoIncDeferred, .r0⟩ .byte demoOdd = .error (.fault f) t) ∧
    (∃ f t, readsOperand ⟨.autoInc, .r0⟩ .word demoOdd = .error (.fault f) t) ∧
    (∃ f t, writesOperand ⟨.autoDec, .r0⟩ .word 0 demoOdd = .error (.fault f) t) ∧
    (∃ f t, (do let _ ← readReg .r2; readsOperand ⟨.deferred, .r0⟩ .word) demoOdd = .error (.fault f) t) ∧
    (∃ f t, (do let _ ← readReg .r2; let _ ← resolveEA ⟨.autoDecDeferred, .r0⟩ .word) demoOdd = .error (.fault f) t) :=
  ⟨⟨_, _, rfl⟩, ⟨_, _, rfl⟩, ⟨_, _, rfl⟩, ⟨_, _, rfl⟩, ⟨_, _, rfl⟩⟩
theorem witness_StopsWhereEitherOperandRaises :
    (∃ f t, (do let _ ← readsOperand ⟨.autoInc, .r1⟩ .byte; let _ ← resolveEA ⟨.autoIncDeferred, .r0⟩ .byte) demoOdd =
      .error (.fault f) t) ∧
    (∃ f t, (do let _ ← readsOperand ⟨.autoInc, .r1⟩ .word; readsOperand ⟨.deferred, .r0⟩ .word) demoOdd =
      .error (.fault f) t) ∧
    (∃ f t, (do let v ← readsOperand ⟨.autoInc, .r1⟩ .word; writesOperand ⟨.deferred, .r0⟩ .word v) demoOdd =
      .error (.fault f) t) ∧
    (∃ f t, (do let v ← readsOperand ⟨.autoInc, .r1⟩ .byte; writeOpSext (← resolve ⟨.autoIncDeferred, .r0⟩ .byte) v) demoOdd =
      .error (.fault f) t) := ⟨⟨_, _, rfl⟩, ⟨_, _, rfl⟩, ⟨_, _, rfl⟩, ⟨_, _, rfl⟩⟩
theorem witness_FaultsInsideResolutionKeepTheStep_access : resolve ⟨.autoInc, .r0⟩ .word demoOdd =
    .ok (.mem 0o2001) (demoOdd.setReg .r0 0o2003) ∧ readOp (.mem 0o2001) .word (demoOdd.setReg .r0 0o2003) =
    .error (.fault (.busFault .oddAddress 0o2001)) (demoOdd.setReg .r0 0o2003) := ⟨rfl, rfl⟩
theorem witness_WritingBackTheSameValueChangesNothing :
    demo.mem.wf = true ∧
    specReady demo ⟨.autoIncDeferred, .r0⟩ .word = true ∧
    specReady demo ⟨.register, .r5⟩ .byte = true ∧
    demo.devRead = [] ∧
    demo.devWrite = [] := by decide
theorem witness_ResolutionAdvancesThePcByItsExtensionWords :
    resolvable demo ⟨.indexDeferred, .r3⟩ = true ∧
    resolvable demo ⟨.autoInc, .r7⟩ = true ∧
    resolvable demo ⟨.register, .r0⟩ = true := by decide
theorem witness_StubsAndNop :
    State.reset.params.unimplPolicy = .nop ∧
    ({ State.reset with params := { Params.default with unimplPolicy := .fault } } : State).params.unimplPolicy = .fault := by decide
theorem witness_TrapsEnterThroughTheirVectors :
    isOddAddr (demo.reg .r6) = false ∧
    busFree demo = true ∧
    isOddAddr (demoOdd.reg .r6) = true := by decide
theorem witness_TrapReturnsPopPcAndPsw :
    isOddAddr (demo.reg .r6) = false ∧
    busFree demo = true ∧
    isOddAddr (demoOdd.reg .r6) = true := by decide
theorem witness_TrapThenReturnRestores :
    demo.mem.wf = true ∧
    demo.devRead = [] ∧
    demo.devWrite = [] ∧
    busFree demo = true ∧
    isOddAddr (demo.reg .r6) = false ∧
    isNext (exec .iot demo) = true ∧
    (nextOr (exec .iot demo) demo).devRead = [] ∧
    busFree (nextOr (exec .iot demo) demo) = true := by decide
/-- The hypothesis of ComplementIncrementDecrementNegate, AddCarry and RotatesAndShifts. -/
theorem witness_StoresResult :
    specReady demo ⟨.autoIncDeferred, .r0⟩ .byte = true ∧
    specReady demo ⟨.register, .r0⟩ .word = true ∧
    specReady demoDevice ⟨.deferred, .r1⟩ .word = true := by decide
theorem witness_SubtractCarry :
    specReady { demo with psw := 0 } ⟨.register, .r3⟩ .word = true ∧
    (readSpec { demo with psw := 0 } ⟨.register, .r3⟩ .word).value = signOf .word ∧
    ({ demo with psw := 0 } : State).psw.getLsbD 0 = false ∧
    (readSpec demo ⟨.register, .r0⟩ .word).value ≠ signOf .word := by decide
theorem witness_ClearAndSignExtend :
    specReady demo ⟨.autoDec, .r6⟩ .word = true ∧
    specReady demo ⟨.register, .r0⟩ .byte = true := by decide
theorem witness_TestAndSwapBytes :
    specReady demo ⟨.autoInc, .r6⟩ .byte = true ∧
    specReady demo ⟨.deferred, .r0⟩ .word = true := by decide
theorem witness_JumpAndItsIllegalMode :
    resolvable demo ⟨.autoIncDeferred, .r0⟩ = true ∧
    (Mode.autoIncDeferred ≠ Mode.register) := by decide
theorem witness_Multiply :
    specReady demo ⟨.register, .r2⟩ .word = true ∧
    Reg.r0.isOdd = false ∧
    Reg.r3.isOdd = true := by decide
/-- DIV: a pair and a divisor, and for each clause a dividend n, divisor d, quotient q and remainder m. -/
theorem witness_Divide : specReady demo ⟨.register, .r2⟩ .word = true ∧ Reg.r0.isOdd = false ∧
    Reg.r1.isOdd = true := by decide
theorem witness_Divide_stored : (-7 : Int) = -3 * 2 + -1 ∧ |(-1 : Int)| < |(2 : Int)| ∧ (-32768 : Int) < -3 ∧
    (32767 : Int) * 2 + 1 = 65535 ∧ |(1 : Int)| < |(2 : Int)| := by decide
theorem witness_Divide_overflow : (65536 : Int) = 32768 * 2 + 0 ∧ (32767 : Int) < 32768 ∧
    (-65538 : Int) = -32769 * 2 + 0 ∧ (-32769 : Int) < -32768 ∧ |(0 : Int)| < |(2 : Int)| := by decide
theorem witness_Divide_most_negative : (-65537 : Int) = -32768 * 2 + -1 ∧ |(-1 : Int)| < |(2 : Int)| := by decide
theorem witness_ShiftsStepByStep : 0 < 1 ∧ 0 < 32 := by decide
theorem witness_ArithmeticShifts :
    specReady demo ⟨.register, .r2⟩ .word = true ∧
    Reg.r3.isOdd = true ∧
    Reg.r0.isOdd = false := by decide
theorem witness_ExclusiveOr :
    specReady demo ⟨.autoInc, .r0⟩ .word = true := by decide
theorem witness_SubtractOneAndBranch :
    (demo.reg .r4).toNat = 1 ∧
    (demo.reg .r2).toNat ≠ 1 := by decide
theorem witness_Move :
    specReady demo ⟨.autoInc, .r0⟩ .word = true ∧
    specReady (readSpec demo ⟨.autoInc, .r0⟩ .word).after ⟨.autoDec, .r6⟩ .word = true ∧
    specReady demo ⟨.autoInc, .r0⟩ .byte = true ∧
    specReady (readSpec demo ⟨.autoInc, .r0⟩ .byte).after ⟨.register, .r0⟩ .byte = true ∧
    specReady (readSpec demo ⟨.autoInc, .r0⟩ .byte).after ⟨.autoInc, .r0⟩ .byte = true := by decide
theorem witness_DoubleOperandResults :
    specReady demo ⟨.autoInc, .r0⟩ .word = true ∧
    specReady (readSpec demo ⟨.autoInc, .r0⟩ .word).after ⟨.autoInc, .r0⟩ .word = true ∧
    specReady demo ⟨.autoInc, .r0⟩ .byte = true ∧
    specReady (readSpec demo ⟨.autoInc, .r0⟩ .byte).after ⟨.register, .r3⟩ .byte = true := by decide
theorem witness_BranchesAfterCompareAreComparisons :
    specReady demo ⟨.autoInc, .r0⟩ .word = true ∧
    specReady (readSpec demo ⟨.autoInc, .r0⟩ .word).after ⟨.autoInc, .r0⟩ .word = true ∧
    specReady demo ⟨.autoInc, .r0⟩ .byte = true ∧
    specReady (readSpec demo ⟨.autoInc, .r0⟩ .byte).after ⟨.register, .r3⟩ .byte = true := by decide
/-- A routed address reached in mode 1, and in mode 3 through a pointer at 2000. -/
theorem witness_WriteOnlyDestinationsAreNotRead :
    let d : Specifier := ⟨.deferred, .r1⟩
    let p : Specifier := ⟨.autoIncDeferred, .r0⟩
    let s := demoDevice.arrayWrite .word 0o2000 0o177560
    resolvable s d = true ∧ aligned .word (effAddr s d .word) = true ∧ (afterResolve s d .word).routedWrite (effAddr s d .word) = true ∧
    resolvable s p = true ∧ aligned .word (effAddr s p .word) = true ∧ (afterResolve s p .word).routedWrite (effAddr s p .word) = true ∧
    (afterResolve s p .byte).routedWrite (effAddr s p .byte) = true := by decide
theorem witness_WriteOnlyDestinationsAreNotRead_move :
    let d : Specifier := ⟨.deferred, .r1⟩
    let x (w : Width) := (readSpec demoDevice ⟨.autoInc, .r0⟩ w).after
    specReady demoDevice ⟨.autoInc, .r0⟩ .word = true ∧ specReady demoDevice ⟨.autoInc, .r0⟩ .byte = true ∧
    resolvable (x .word) d = true ∧ aligned .word (effAddr (x .word) d .word) = true ∧
    (afterResolve (x .word) d .word).routedWrite (effAddr (x .word) d .word) = true ∧ resolvable (x .byte) d = true ∧
    (afterResolve (x .byte) d .byte).routedWrite (effAddr (x .byte) d .byte) = true := by decide
theorem witness_JumpToSubroutine : resolvable demo ⟨.autoIncDeferred, .r0⟩ = true ∧
    isOddAddr ((afterResolve demo ⟨.autoIncDeferred, .r0⟩ .word).reg .r6) = false ∧
    resolvable demoOdd ⟨.deferred, .r0⟩ = true ∧ isOddAddr ((afterResolve demoOdd ⟨.deferred, .r0⟩ .word).reg .r6) = true := by
  decide
theorem witness_ReturnFromSubroutine :
    isOddAddr (demo.reg .r6) = false ∧
    busFree demo = true ∧
    isOddAddr (demoOdd.reg .r6) = true := by decide
theorem witness_CallThenReturnRestores :
    let o : Specifier := ⟨.indexDeferred, .r0⟩
    let s := demo.arrayWrite .word 0o1000 0
    let t := nextOr (exec (.jsr .r5 o) s) s
    .r5 ∉ steppedBy o ∧ .r6 ∉ steppedBy o ∧ s.mem.wf = true ∧ s.devWrite = [] ∧ resolvable s o = true ∧
    isOddAddr (s.reg .r6) = false ∧
    isNext (exec (.jsr .r5 o) s) = true ∧ t.devRead = [] ∧ busFree t = true := by decide
theorem witness_FrameOfReadOnlyInstructions : isNext (exec (.tstb ⟨.autoInc, .r0⟩) demo) = true ∧
    isNext (exec (.cmp ⟨.autoInc, .r0⟩ ⟨.deferred, .r0⟩) demo) = true ∧
    isNext (exec (.bitb ⟨.autoInc, .r0⟩ ⟨.deferred, .r0⟩) demo) = true := by decide
theorem witness_FrameOfSingleOperandStores : singleStores.all (fun p => isNext (exec (p.1 ⟨.autoInc, .r0⟩) demo)) = true := by
  decide
theorem witness_FrameOfDoubleOperandStores :
    doubleStores.all (fun p => isNext (exec (p.1 ⟨.autoInc, .r0⟩ ⟨.deferred, .r1⟩) demo)) = true ∧
    isNext (exec (.xor .r0 ⟨.autoInc, .r0⟩) demo) = true := by decide
theorem witness_FrameOfRegisterResults : isNext (exec (.mul .r0 ⟨.register, .r2⟩) demo) = true ∧
    isNext (exec (.ashc .r0 ⟨.register, .r2⟩) demo) = true ∧ isNext (exec (.ash .r0 ⟨.register, .r2⟩) demo) = true ∧
    isNext (exec (.sob .r0 1) demo) = true ∧ isNext (exec (.div .r1 ⟨.register, .r2⟩) demo) = true := by decide
theorem witness_FrameOfControlTransfers : (branches 1).all (fun i => isNext (exec i demo)) = true ∧
    isNext (exec (.jmp ⟨.deferred, .r0⟩) demo) = true ∧
    isNext (exec (.jsr .r5 ⟨.deferred, .r0⟩) demo) = true ∧ isNext (exec (.rts .r5) demo) = true ∧
    isNext (exec .bpt demo) = true ∧ isNext (exec .iot demo) = true ∧ isNext (exec .rti demo) = true ∧
    isNext (exec .rtt demo) = true := by decide
theorem witness_OnlyTrapsAndReturnsWritePswHighBits : isNext (exec (.com ⟨.deferred, .r0⟩) demo) = true ∧
    loadsPsw (.com ⟨.deferred, .r0⟩) = false := by decide
theorem witness_PswHighBitsHaveNoEffect : isNext (exec (.adc ⟨.deferred, .r0⟩) demo) = true ∧
    isNext (exec .rti demo) = true := by decide
theorem witness_StepsKeepTheLaunch : isNext (step demoDevice) = true := by decide
theorem witness_StepRunsTheDecodedInstruction : launchLegal demo = true ∧ faultStopped demo = false ∧
    fetchReady demo = true ∧ decodeWord (fetchValue (beginCycle demo)) = .ok (.inc ⟨.register, .r0⟩) ∧
    demo.routedRead (demo.reg .r7) = false := by decide
theorem witness_UnclaimedWordsAndOddPcsStop :
    let u := demo.arrayWrite .word 0o1000 0o104000
    let d := demo.setReg .r7 0o1001
    launchLegal u = true ∧ faultStopped u = false ∧ busFree u = true ∧
    isOddAddr (u.reg .r7) = false ∧ classify (fetchValue (beginCycle u)) = none ∧ launchLegal d = true ∧
    faultStopped d = false ∧ busFree d = true ∧ isOddAddr (d.reg .r7) = true := by decide
theorem witness_FaultStopsAreStickyOthersResume : launchLegal demo = true ∧
    (demo.stop (.fault (.noProgress 0))).execState = .stopped (.fault (.noProgress 0)) ∧
    (demo.stop .halt).execState = .stopped .halt ∧ (demo.stop .wait).execState = .stopped .wait ∧
    (let s : State := { demo with runFlag := true }
     getRun s = true ∧ isNext (step s) = true ∧ continues (nextOr (step s) s) = true) := by decide
theorem witness_LoaderPlacesTheImage : hostMayWrite State.reset = true ∧ isOddAddr 0o1001 = true ∧
    65536 < (0o177776 : Word).toNat + 2 * [(1 : Word), 2].length ∧ isOddAddr 0o177774 = false ∧
    (0o177774 : Word).toNat + 2 * [(1 : Word), 2].length ≤ 65536 ∧ busFree State.reset = true ∧
    State.reset.devWrite = [] ∧ State.reset.mem.wf = true := by decide

end Sys2Proof.Tests
end

section
/-! The condition codes after `SetNZVC` (00_scope.md R17): what each flag reads after a pattern is applied. -/

namespace Sys2Proof.Machine

/-! ### The four flags of `applyPattern` -/

@[simp] theorem flagC_applyPattern (q : Pattern) (p : Word) : flagC (applyPattern q p) = q.c.getD (flagC p) := by
  simp only [flagC, applyPattern, BitVec.getLsbD_append]
  simp

@[simp] theorem flagV_applyPattern (q : Pattern) (p : Word) : flagV (applyPattern q p) = q.v.getD (flagV p) := by
  simp only [flagV, applyPattern, BitVec.getLsbD_append]
  simp

@[simp] theorem flagZ_applyPattern (q : Pattern) (p : Word) : flagZ (applyPattern q p) = q.z.getD (flagZ p) := by
  simp only [flagZ, applyPattern, BitVec.getLsbD_append]
  simp

@[simp] theorem flagN_applyPattern (q : Pattern) (p : Word) : flagN (applyPattern q p) = q.n.getD (flagN p) := by
  simp only [flagN, applyPattern, BitVec.getLsbD_append]
  simp

/-- Settles O20: one rule per flag for `applyPattern`, and `sameHigh_applyPattern` for bits 15-4; the rest of the
state is untouched by the definition of `State.setFlags`. -/
theorem patternsWriteOnlyTheirFlags : Obligations.PatternsWriteOnlyTheirFlags := fun s q =>
  ⟨s.setFlags q, setFlags_apply s q, flagN_applyPattern q s.psw, flagZ_applyPattern q s.psw,
    flagV_applyPattern q s.psw, flagC_applyPattern q s.psw, sameHigh_applyPattern q s.psw, rfl⟩

end Sys2Proof.Machine
end

section
/-! What depends on the condition codes of the PSW only, not on its bits 15-4 (10_state.md R40, R42). -/

namespace Sys2Proof.Machine

/-- PSW bits 3-0 are the same. -/
def sameCodes (p q : Word) : Prop := q.extractLsb' 0 4 = p.extractLsb' 0 4

/-- The value depends on PSW bits 3-0 only. -/
def ByCodes {α : Type} (g : Word → α) : Prop := ∀ p q, sameCodes p q → g q = g p

theorem sameCodes_iff_flags {p q : Word} :
    sameCodes p q ↔ flagN q = flagN p ∧ flagZ q = flagZ p ∧ flagV q = flagV p ∧ flagC q = flagC p := by
  constructor
  · intro h
    have bit (i : Nat) (hi : i < 4) : q.getLsbD i = p.getLsbD i := by
      simpa [BitVec.getLsbD_extractLsb', hi] using congrArg (·.getLsbD i) h
    exact ⟨bit 3 (by decide), bit 2 (by decide), bit 1 (by decide), bit 0 (by decide)⟩
  · rintro ⟨hn, hz, hv, hc⟩
    refine BitVec.eq_of_getLsbD_eq fun i hi => ?_
    simp only [BitVec.getLsbD_extractLsb', hi, decide_true, Bool.true_and, Nat.zero_add]
    interval_cases i
    · exact hc
    · exact hv
    · exact hz
    · exact hn

/-- The same high bits and the same condition codes are the same PSW. -/
theorem eq_of_sameHigh_of_sameCodes {p q : Word} (hh : sameHigh p q) (hc : sameCodes p q) : q = p := by
  have split (x : Word) : x.extractLsb' 4 12 ++ x.extractLsb' 0 4 = x := BitVec.extractLsb'_append_extractLsb'
  rw [← split p, ← split q, hh, hc]

theorem sameHigh_append (p : Word) (c : BitVec 4) : sameHigh p (p.extractLsb' 4 12 ++ c) :=
  BitVec.extractLsb'_append_eq_left

theorem sameCodes_append (x y : BitVec 12) (c : BitVec 4) : sameCodes (x ++ c) (y ++ c) :=
  BitVec.extractLsb'_append_eq_right.trans BitVec.extractLsb'_append_eq_right.symm

theorem sameCodes_applyPattern {p q : Word} (a : Pattern) (h : sameCodes p q) :
    sameCodes (applyPattern a p) (applyPattern a q) := by
  obtain ⟨hn, hz, hv, hc⟩ := sameCodes_iff_flags.mp h
  simp only [sameCodes_iff_flags, flagN_applyPattern, flagZ_applyPattern, flagV_applyPattern, flagC_applyPattern, hn, hz,
    hv, hc, and_self]

theorem sameCodes_clearCodes {p q : Word} (m : BitVec 4) (h : sameCodes p q) :
    sameCodes (clearCodes m p) (clearCodes m q) := by
  unfold clearCodes; rw [h]; exact sameCodes_append _ _ _

theorem sameCodes_setCodes {p q : Word} (m : BitVec 4) (h : sameCodes p q) : sameCodes (setCodes m p) (setCodes m q) := by
  unfold setCodes; rw [h]; exact sameCodes_append _ _ _

theorem byCodes_const {α : Type} (a : α) : ByCodes fun _ => a := fun _ _ _ => rfl

/-- What is computed from the four flags depends on the condition codes only. -/
theorem byCodes_flags {α : Type} (g : Bool → Bool → Bool → Bool → α) :
    ByCodes fun p => g (flagN p) (flagZ p) (flagV p) (flagC p) := fun p q h => by
  obtain ⟨hn, hz, hv, hc⟩ := sameCodes_iff_flags.mp h
  simp only [hn, hz, hv, hc]

/-- What is computed from N depends on the condition codes only. -/
theorem byCodes_flagN {α : Type} (g : Bool → α) : ByCodes fun p => g (flagN p) := byCodes_flags fun n _ _ _ => g n

/-- What is computed from C depends on the condition codes only. -/
theorem byCodes_flagC {α : Type} (g : Bool → α) : ByCodes fun p => g (flagC p) := byCodes_flags fun _ _ _ c => g c

theorem byCodes_carryIn : ByCodes carryIn := byCodes_flagC fun c => if c then 1 else 0

theorem byCodes_sxtResult : ByCodes sxtResult := byCodes_flagN fun n => if n then 0o177777 else 0

theorem byCodes_sxtFlags : ByCodes sxtFlags := byCodes_flagN fun n => Pattern.mk none (some (!n)) (some false) none

theorem byCodes_adcResult (w : Width) (d : Word) : ByCodes (adcResult w d) := fun p q e => by
  simp only [adcResult, byCodes_carryIn p q e]

theorem byCodes_adcFlags (w : Width) (d r : Word) : ByCodes (adcFlags w d r) :=
  byCodes_flagC fun c => nzFlags w r (some (d == signOf w - 1 && c)) (some (d == maskOf w && c))

theorem byCodes_sbcResult (w : Width) (d : Word) : ByCodes (sbcResult w d) := fun p q e => by
  simp only [sbcResult, byCodes_carryIn p q e]

theorem byCodes_sbcFlags (w : Width) (d r : Word) : ByCodes (sbcFlags w d r) :=
  byCodes_flagC fun c v => nzFlags w r (some (if d == signOf w && !c then v else d == signOf w && c)) (some (d == 0 && c))

theorem byCodes_rorResult (w : Width) (d : Word) : ByCodes (rorResult w d) := fun p q e => by
  simp only [rorResult, byCodes_carryIn p q e]

theorem byCodes_rolResult (w : Width) (d : Word) : ByCodes (rolResult w d) := fun p q e => by
  simp only [rolResult, byCodes_carryIn p q e]

end Sys2Proof.Machine
end

section
/-! The bus accesses in one equation each, wherever they end (20_memory.md R76 to R80), and the word an instruction
fetch answers. -/

namespace Sys2Proof.Machine

/-- Only a word access at an odd address is not aligned. -/
theorem word_of_not_aligned {w : Width} {a : Word} (h : ¬ aligned w a = true) : w = .word ∧ isOddAddr a = true := by
  cases w <;> simp_all [aligned]

theorem memRead_apply (s : State) (w : Width) (a : Word) :
    memRead w a s = if aligned w a = false then .error (.fault (.busFault .oddAddress a)) s
      else if s.routedRead a = true ∧ s.busLock ≠ .free then .error (.refuse .busLockHeld) s
      else .ok (busValue s w a) (afterRead s w a) := by
  by_cases ha : aligned w a = true
  · by_cases hf : s.busLock = .free
    · simp [memRead_ok ha (by simpa [busFree] using hf), ha, hf]
    · by_cases hr : s.routedRead a = true
      · simp [memRead, checkAligned_ok ha, ha, hr, hf, deviceRead, acquireBus]
      · simp [memRead, checkAligned_ok ha, ha, hr, busValue, afterRead]
  · obtain ⟨rfl, ho⟩ := word_of_not_aligned ha
    simp [memRead_odd ho, ha]

theorem memWrite_apply (s : State) (w : Width) (a v : Word) :
    memWrite w a v s = if aligned w a = false then .error (.fault (.busFault .oddAddress a)) s
      else if s.routedWrite a = true ∧ s.busLock ≠ .free then .error (.refuse .busLockHeld) s
      else .ok () (afterWrite s w a v) := by
  by_cases ha : aligned w a = true
  · by_cases hf : s.busLock = .free
    · simp [memWrite_ok ha (by simpa [busFree] using hf), ha, hf]
    · by_cases hr : s.routedWrite a = true
      · simp [memWrite, checkAligned_ok ha, ha, hr, hf, deviceWrite, acquireBus]
      · simp [memWrite, checkAligned_ok ha, ha, hr, afterWrite]
  · obtain ⟨rfl, ho⟩ := word_of_not_aligned ha
    simp [memWrite_odd ho, ha]

/-- The fetch of an instruction answers the word at the PC. -/
theorem fetchInstruction_ok {s t : State} {a ir : Word} (h : fetchInstruction s = .ok (a, ir) t) :
    ir = fetchValue s := by
  simp only [fetchInstruction, fetchWord, bind_apply, readReg_apply] at h
  rcases memRead_cases s .word (s.reg .r7) with hm | hm | hm <;> rw [hm] at h <;> cases h
  rfl

end Sys2Proof.Machine
end

section
/-! Two runs of the machine in lockstep: a relation between states that every shared operation keeps is kept by every
instruction and every step. The one walk over the instructions is `exec_alike`. -/

namespace Sys2Proof.Machine

open Sys2Proof.Claims

/-! ### Relations kept in lockstep -/

/-- Related states differ in registers and PSW only, hold the same values in the registers `L` and the same condition
codes, and stay related when one shared operation acts on both. -/
structure Lockstep (L : Reg → Prop) (E : State → State → Prop) : Prop where
  rest       : ∀ {s t}, E s t → t = { s with regs := t.regs, psw := t.psw }
  reg        : ∀ {s t}, E s t → ∀ r, L r → t.reg r = s.reg r
  codes      : ∀ {s t}, E s t → sameCodes s.psw t.psw
  writeReg   : ∀ {s t}, E s t → ∀ r v, E (s.setReg r v) (t.setReg r v)
  writeCodes : ∀ {s t}, E s t → ∀ x y, sameHigh s.psw x → sameHigh t.psw y → sameCodes x y →
    E { s with psw := x } { t with psw := y }
  busRead    : ∀ {s t}, E s t → ∀ w a, E (afterRead s w a) (afterRead t w a)
  busWrite   : ∀ {s t}, E s t → ∀ w a v, E (afterWrite s w a v) (afterWrite t w a v)
  draw       : ∀ {s t}, E s t → E { s with draws := s.draws + 1 } { t with draws := t.draws + 1 }
  stop       : ∀ {s t}, E s t → ∀ k, E (s.stop k) (t.stop k)

section shared

variable {L : Reg → Prop} {E : State → State → Prop} (hE : Lockstep L E) {s t : State} (e : E s t)
include hE e

theorem Lockstep.draws : t.draws = s.draws := by rw [hE.rest e]
theorem Lockstep.params : t.params = s.params := by rw [hE.rest e]
theorem Lockstep.execState : t.execState = s.execState := by rw [hE.rest e]
theorem Lockstep.busLock : t.busLock = s.busLock := by rw [hE.rest e]
theorem Lockstep.routedRead (a : Word) : t.routedRead a = s.routedRead a := by rw [hE.rest e]; rfl
theorem Lockstep.routedWrite (a : Word) : t.routedWrite a = s.routedWrite a := by rw [hE.rest e]; rfl
theorem Lockstep.busValue (w : Width) (a : Word) : busValue t w a = busValue s w a := by rw [hE.rest e]; cases w <;> rfl
theorem Lockstep.launchRefusal : launchRefusal t = launchRefusal s := by rw [hE.rest e]; rfl
theorem Lockstep.faultStopped : faultStopped t = faultStopped s := by rw [hE.rest e]; rfl

end shared

/-- The relation also survives the load of one whole PSW into both states (10_state.md R42 (c), (d)). -/
def Loadable (E : State → State → Prop) : Prop := ∀ s t v, E s t → E { s with psw := v } { t with psw := v }

/-- Related states hold the same whole PSW. -/
def SamePsw (E : State → State → Prop) : Prop := ∀ s t, E s t → t.psw = s.psw

/-- Two runs of a piece end in the same way, with the same answer, in related states. -/
inductive EndsAlike {α : Type} (E : State → State → Prop) :
    EStateM.Result Abort State α → EStateM.Result Abort State α → Prop
  | ok (a : α) {s t : State} : E s t → EndsAlike E (.ok a s) (.ok a t)
  | error (e : Abort) {s t : State} : E s t → EndsAlike E (.error e s) (.error e t)

/-- From related states the piece ends alike. -/
def Alike {α : Type} (E : State → State → Prop) (m : Exec α) : Prop := ∀ s t, E s t → EndsAlike E (m s) (m t)

/-! ### Every shared operation, once -/

section pieces

variable {L : Reg → Prop} {E : State → State → Prop} {α β : Type}

theorem Alike.bind {m : Exec α} {f : α → Exec β} (h : Alike E m) (k : ∀ a, Alike E (f a)) : Alike E (m >>= f) :=
  fun s t e => by
    have hm := h s t e
    rw [bind_apply, bind_apply]
    generalize m s = x, m t = y at hm
    cases hm with
    | ok a e => exact k a _ _ e
    | error d e => exact .error d e

theorem alike_pure (a : α) : Alike E (pure a : Exec α) := fun _ _ e => .ok a e

theorem alike_raise (f : Fault) : Alike E (raise f : Exec α) := fun _ _ e => .error _ e

theorem alike_ite {c : Prop} [Decidable c] {m n : Exec α} (hm : Alike E m) (hn : Alike E n) :
    Alike E (if c then m else n) := by
  split
  · exact hm
  · exact hn

variable (hE : Lockstep L E)
include hE

theorem alike_readReg {r : Reg} (h : L r) : Alike E (readReg r) := fun s t e => by
  rw [readReg_apply, readReg_apply, hE.reg e r h]; exact .ok _ e

theorem alike_writeReg (r : Reg) (v : Word) : Alike E (writeReg r v) := fun _ _ e => .ok () (hE.writeReg e r v)

/-- The PSW read into what depends on its condition codes only. -/
theorem alike_readPsw_bind {f : Word → Exec α} (hf : ByCodes f) (k : ∀ p, Alike E (f p)) : Alike E (readPsw >>= f) :=
  fun s t e => by
    simp only [bind_apply, readPsw_apply]
    rw [hf _ _ (hE.codes e)]
    exact k _ _ _ e

theorem alike_setFlags (q : Pattern) : Alike E (setFlags q) := fun _ _ e =>
  .ok () (hE.writeCodes e _ _ (sameHigh_applyPattern q _) (sameHigh_applyPattern q _)
    (sameCodes_applyPattern q (hE.codes e)))

theorem alike_clearMask (m : BitVec 4) : Alike E (clearMask m) := fun _ _ e =>
  .ok () (hE.writeCodes e _ _ (sameHigh_append _ _) (sameHigh_append _ _) (sameCodes_clearCodes m (hE.codes e)))

theorem alike_setMask (m : BitVec 4) : Alike E (setMask m) := fun _ _ e =>
  .ok () (hE.writeCodes e _ _ (sameHigh_append _ _) (sameHigh_append _ _) (sameCodes_setCodes m (hE.codes e)))

theorem alike_stopCore (k : StopReason) : Alike E (stopCore k) := fun _ _ e => .ok () (hE.stop e k)

theorem alike_drawFlag : Alike E drawFlag := fun s t e => by
  rw [drawFlag_apply, drawFlag_apply, hE.draws e]
  exact .ok _ (hE.draws e ▸ hE.draw e)

theorem alike_unimplemented (k : Stub) : Alike E (unimplemented k) := fun s t e => by
  simp only [unimplemented, bind_apply, get_apply, hE.params e]
  cases s.params.unimplPolicy
  · exact .ok () e
  · exact .error _ e

/-! #### The bus -/

theorem alike_memRead (w : Width) (a : Word) : Alike E (memRead w a) := fun s t e => by
  rw [memRead_apply, memRead_apply, hE.routedRead e, hE.busLock e, hE.busValue e]
  split
  · exact .error _ e
  · split
    · exact .error _ e
    · exact .ok _ (hE.busRead e w a)

theorem alike_memWrite (w : Width) (a v : Word) : Alike E (memWrite w a v) := fun s t e => by
  rw [memWrite_apply, memWrite_apply, hE.routedWrite e, hE.busLock e]
  split
  · exact .error _ e
  · split
    · exact .error _ e
    · exact .ok _ (hE.busWrite e w a v)

/-! #### Fetch, stack, traps -/

theorem alike_fetchWord (h : L .r7) : Alike E fetchWord :=
  (alike_readReg hE h).bind fun _ => (alike_memRead hE _ _).bind fun _ =>
    (alike_writeReg hE _ _).bind fun _ => alike_pure _

theorem alike_push (h : L .r6) (v : Word) : Alike E (push v) :=
  (alike_readReg hE h).bind fun _ => (alike_writeReg hE _ _).bind fun _ => alike_memWrite hE _ _ _

theorem alike_pop (h : L .r6) : Alike E pop :=
  (alike_readReg hE h).bind fun _ => (alike_memRead hE _ _).bind fun _ =>
    (alike_writeReg hE _ _).bind fun _ => alike_pure _

omit hE in
theorem alike_readPsw (h : SamePsw E) : Alike E readPsw := fun s t e => by
  rw [readPsw_apply, readPsw_apply, h s t e]; exact .ok _ e

omit hE in
theorem alike_writePsw (h : Loadable E) (v : Word) : Alike E (writePsw v) := fun s t e => .ok () (h s t v e)

theorem alike_trapEntry (hp : SamePsw E) (hl : Loadable E) (h6 : L .r6) (h7 : L .r7) (v : Word) :
    Alike E (trapEntry v) :=
  (alike_readPsw hp).bind fun _ => (alike_push hE h6 _).bind fun _ =>
    (alike_readReg hE h7).bind fun _ => (alike_push hE h6 _).bind fun _ =>
      (alike_memRead hE _ _).bind fun _ => (alike_writeReg hE _ _).bind fun _ =>
        (alike_memRead hE _ _).bind fun _ => alike_writePsw hl _

theorem alike_trapReturn (hl : Loadable E) (h6 : L .r6) : Alike E trapReturn :=
  (alike_pop hE h6).bind fun _ => (alike_writeReg hE _ _).bind fun _ =>
    (alike_pop hE h6).bind fun _ => alike_writePsw hl _

/-! #### Operands -/

theorem alike_resolveEA {o : Specifier} (h : ∀ r ∈ resolutionReads o, L r) (w : Width) : Alike E (resolveEA o w) := by
  obtain ⟨m, r⟩ := o
  cases m <;> simp only [resolutionReads, List.forall_mem_cons, List.not_mem_nil, false_implies, implies_true, and_true] at h
  case register => exact alike_pure _
  case deferred => exact alike_readReg hE h
  case autoInc | autoDec =>
    exact (alike_readReg hE h).bind fun _ => (alike_writeReg hE _ _).bind fun _ => alike_pure _
  case autoIncDeferred | autoDecDeferred =>
    exact (alike_readReg hE h).bind fun _ => (alike_writeReg hE _ _).bind fun _ => alike_memRead hE _ _
  case index =>
    exact (alike_fetchWord hE h.1).bind fun _ => (alike_readReg hE h.2).bind fun _ => alike_pure _
  case indexDeferred =>
    exact (alike_fetchWord hE h.1).bind fun _ => (alike_readReg hE h.2).bind fun _ => alike_memRead hE _ _

/-- A specifier resolved, and its operand used: a register operand is the one the specifier names. -/
theorem alike_resolve_bind {o : Specifier} (h : ∀ r ∈ resolutionReads o, L r) (w : Width) {f : Operand → Exec α}
    (k : ∀ op, (∀ r, op = .reg r → r ∈ namedBy o) → Alike E (f op)) : Alike E (resolve o w >>= f) := by
  have memory : Alike E (resolveEA o w >>= fun ea => f (.mem ea)) :=
    (alike_resolveEA hE h w).bind fun _ => k _ nofun
  obtain ⟨m, r⟩ := o
  cases m
  case register => exact k _ fun _ hr => by cases hr; exact List.mem_singleton_self r
  all_goals simpa only [resolve, bind_assoc, pure_bind] using memory

theorem alike_resolveJump {o : Specifier} (h : ∀ r ∈ resolutionReads o, L r) : Alike E (resolveJump o) :=
  alike_ite (alike_raise _) (alike_resolveEA hE h _)

theorem alike_readOp {op : Operand} (h : ∀ r, op = .reg r → L r) (w : Width) : Alike E (readOp op w) := by
  cases op
  · exact (alike_readReg hE (h _ rfl)).bind fun _ => alike_pure _
  · exact alike_memRead hE _ _

/-- Only a byte written to a register reads it (R173). -/
theorem alike_writeOp {op : Operand} {w : Width} (h : w = .byte → ∀ r, op = .reg r → L r) (v : Word) :
    Alike E (writeOp op w v) := by
  cases op
  · cases w
    · exact (alike_readReg hE (h rfl _ rfl)).bind fun _ => alike_writeReg hE _ _
    · exact alike_writeReg hE _ _
  · exact alike_memWrite hE _ _ _

theorem alike_writeOpSext (op : Operand) (v : Word) : Alike E (writeOpSext op v) := by
  cases op
  · exact alike_writeReg hE _ _
  · exact alike_memWrite hE _ _ _

/-- A specifier resolved and its operand read, then used. -/
theorem alike_operand_bind {o : Specifier} (h : ∀ r ∈ operandReads o, L r) (w : Width) {f : Operand → Word → Exec α}
    (k : ∀ op, (∀ r, op = .reg r → L r) → ∀ v, Alike E (f op v)) :
    Alike E (resolve o w >>= fun op => readOp op w >>= f op) := by
  obtain ⟨hres, hname⟩ := List.forall_mem_append.mp h
  exact alike_resolve_bind hE hres w fun op hop =>
    (alike_readOp hE (fun r hr => hname r (hop r hr)) w).bind (k op fun r hr => hname r (hop r hr))

theorem alike_readSource {o : Specifier} (h : ∀ r ∈ operandReads o, L r) : Alike E (readSource o) := by
  obtain ⟨hres, hname⟩ := List.forall_mem_append.mp h
  exact alike_resolve_bind hE hres _ fun op hop => alike_readOp hE (fun r hr => hname r (hop r hr)) _

theorem alike_writePair (r : Reg) (l : Long) : Alike E (writePair r l) :=
  alike_ite (alike_writeReg hE _ _) ((alike_writeReg hE _ _).bind fun _ => alike_writeReg hE _ _)

/-! ### Every meaning of the families, once -/

theorem alike_branchIf {cond : Word → Bool} (hc : ByCodes cond) (h : L .r7) (off : BitVec 8) :
    Alike E (branchIf cond off) :=
  alike_readPsw_bind hE (fun p q e => by rw [hc p q e]) fun _ =>
    alike_ite ((alike_readReg hE h).bind fun _ => alike_writeReg hE _ _) (alike_pure _)

theorem alike_readModifyWrite {w : Width} {o : Specifier} {f : Word → Word → Word}
    {flags : Word → Word → Word → Pattern} (hf : ∀ d, ByCodes (f d)) (hg : ∀ d r, ByCodes (flags d r))
    (h : ∀ r ∈ operandReads o, L r) : Alike E (readModifyWrite w o f flags) :=
  alike_operand_bind hE h w fun _ hop d =>
    alike_readPsw_bind hE (fun p q e => by rw [hf d p q e, hg d _ p q e]) fun _ =>
      (alike_writeOp hE (fun _ => hop) _).bind fun _ => alike_setFlags hE _

/-- Of the three, only CLRB reads a register that it writes (R173). -/
theorem alike_writeOnly {w : Width} {o : Specifier} {f : Word → Word} {flags : Word → Pattern} (hf : ByCodes f)
    (hg : ByCodes flags) (h : ∀ r ∈ resolutionReads o, L r) (hb : w = .byte → ∀ r ∈ namedBy o, L r) :
    Alike E (writeOnly w o f flags) :=
  alike_resolve_bind hE h w fun _ hop =>
    alike_readPsw_bind hE (fun p q e => by rw [hf p q e, hg p q e]) fun _ =>
      (alike_writeOp hE (fun hw r hr => hb hw r (hop r hr)) _).bind fun _ => alike_setFlags hE _

theorem alike_readOnly {w : Width} {o : Specifier} {flags : Word → Pattern} (h : ∀ r ∈ operandReads o, L r) :
    Alike E (readOnly w o flags) :=
  alike_operand_bind hE h w fun _ _ _ => alike_setFlags hE _

theorem alike_subtractCarry {w : Width} {o : Specifier} (h : ∀ r ∈ operandReads o, L r) :
    Alike E (subtractCarry w o) :=
  alike_operand_bind hE h w fun _ hop d =>
    alike_readPsw_bind hE
      (fun p q e => by
        obtain ⟨-, -, -, hc⟩ := sameCodes_iff_flags.mp e
        simp only [byCodes_sbcResult w d p q e, byCodes_sbcFlags w d _ p q e, hc]) fun _ =>
      (alike_writeOp hE (fun _ => hop) _).bind fun _ =>
        alike_ite ((alike_drawFlag hE).bind fun _ => alike_setFlags hE _) (alike_setFlags hE _)

theorem alike_multiply {r : Reg} {o : Specifier} (hr : L r) (h : ∀ r ∈ operandReads o, L r) :
    Alike E (multiply r o) :=
  (alike_readSource hE h).bind fun _ => (alike_readReg hE hr).bind fun _ =>
    (alike_writePair hE _ _).bind fun _ => alike_setFlags hE _

theorem alike_storeQuotient (r : Reg) (q rem : Int) : Alike E (storeQuotient r q rem) :=
  (alike_writeReg hE _ _).bind fun _ => (alike_writeReg hE _ _).bind fun _ => alike_setFlags hE _

theorem alike_divideOverflow (byZero : Bool) : Alike E (divideOverflow byZero) :=
  (alike_drawFlag hE).bind fun _ => (alike_drawFlag hE).bind fun _ => alike_setFlags hE _

theorem alike_divide {r : Reg} {o : Specifier} (ir : Word) (hr : L r) (ho : L (oddOf r))
    (h : ∀ r ∈ operandReads o, L r) : Alike E (divide ir r o) :=
  alike_ite (alike_raise _) <|
    (alike_readSource hE h).bind fun _ => (alike_readReg hE hr).bind fun _ => (alike_readReg hE ho).bind fun _ =>
      alike_ite (alike_divideOverflow hE _) <|
        alike_ite (alike_divideOverflow hE _) <|
          alike_ite
            ((alike_drawFlag hE).bind fun _ => alike_ite (alike_storeQuotient hE _ _ _) (alike_divideOverflow hE _))
            (alike_storeQuotient hE _ _ _)

theorem alike_shiftArith {r : Reg} {o : Specifier} (hr : L r) (h : ∀ r ∈ operandReads o, L r) :
    Alike E (shiftArith r o) :=
  (alike_readSource hE h).bind fun _ => (alike_readReg hE hr).bind fun _ =>
    (alike_writeReg hE _ _).bind fun _ => alike_setFlags hE _

theorem alike_shiftArithCombined {r : Reg} {o : Specifier} (hr : L r) (ho : L (oddOf r))
    (h : ∀ r ∈ operandReads o, L r) : Alike E (shiftArithCombined r o) := by
  have low : L (if r.isOdd then r else oddOf r) := by split <;> assumption
  exact (alike_readSource hE h).bind fun _ => (alike_readReg hE hr).bind fun _ => (alike_readReg hE low).bind fun _ =>
    (alike_writePair hE _ _).bind fun _ => alike_setFlags hE _

theorem alike_exclusiveOr {r : Reg} {o : Specifier} (hr : L r) (h : ∀ r ∈ operandReads o, L r) :
    Alike E (exclusiveOr r o) :=
  (alike_readReg hE hr).bind fun _ => alike_operand_bind hE h _ fun _ hop _ =>
    (alike_writeOp hE (fun _ => hop) _).bind fun _ => alike_setFlags hE _

theorem alike_subtractOneBranch {r : Reg} (hr : L r) (h7 : L .r7) (nn : BitVec 6) :
    Alike E (subtractOneBranch r nn) :=
  (alike_readReg hE hr).bind fun _ => (alike_writeReg hE _ _).bind fun _ => (alike_readReg hE hr).bind fun _ =>
    alike_ite (alike_pure _) ((alike_readReg hE h7).bind fun _ => alike_writeReg hE _ _)

theorem alike_combine {w : Width} {src dst : Specifier} {f : Word → Word → Word}
    {flags : Word → Word → Word → Pattern} (h : ∀ r ∈ operandReads src ++ operandReads dst, L r) :
    Alike E (combine w src dst f flags) := by
  obtain ⟨hs, hd⟩ := List.forall_mem_append.mp h
  exact alike_operand_bind hE hs w fun _ _ _ => alike_operand_bind hE hd w fun _ hop _ =>
    (alike_writeOp hE (fun _ => hop) _).bind fun _ => alike_setFlags hE _

theorem alike_compareOnly {w : Width} {src dst : Specifier} {flags : Word → Word → Pattern}
    (h : ∀ r ∈ operandReads src ++ operandReads dst, L r) : Alike E (compareOnly w src dst flags) := by
  obtain ⟨hs, hd⟩ := List.forall_mem_append.mp h
  exact alike_operand_bind hE hs w fun _ _ _ => alike_operand_bind hE hd w fun _ _ _ => alike_setFlags hE _

theorem alike_moveTo {w : Width} {src dst : Specifier} {write : Operand → Word → Exec Unit}
    (hw : ∀ op v, Alike E (write op v)) (h : ∀ r ∈ operandReads src ++ resolutionReads dst, L r) :
    Alike E (moveTo w src dst write) := by
  obtain ⟨hs, hd⟩ := List.forall_mem_append.mp h
  exact alike_operand_bind hE hs w fun _ _ _ => alike_resolve_bind hE hd w fun _ _ =>
    (hw _ _).bind fun _ => alike_setFlags hE _

theorem alike_jumpSubroutine {r : Reg} {o : Specifier} (h : ∀ q ∈ resolutionReads o ++ [r, .r6, .r7], L q) :
    Alike E (jumpSubroutine r o) := by
  simp only [List.forall_mem_append, List.forall_mem_cons] at h
  obtain ⟨ho, hr, h6, h7, -⟩ := h
  exact (alike_resolveJump hE ho).bind fun _ => (alike_readReg hE hr).bind fun _ => (alike_push hE h6 _).bind fun _ =>
    (alike_readReg hE h7).bind fun _ => (alike_writeReg hE _ _).bind fun _ => alike_writeReg hE _ _

theorem alike_returnSubroutine {r : Reg} (hr : L r) (h6 : L .r6) : Alike E (returnSubroutine r) :=
  (alike_readReg hE hr).bind fun _ => (alike_writeReg hE _ _).bind fun _ => (alike_pop hE h6).bind fun _ =>
    alike_writeReg hE _ _

/-- The outcomes of related states are related: a raise stops both cores with the same fault. -/
theorem Alike.outcome {m : Exec Unit} (hm : Alike E m) {s t u : State} (e : E s t) (h : finish m s = .next u) :
    ∃ v, finish m t = .next v ∧ E u v := by
  have hm := hm s t e
  unfold finish at h ⊢
  generalize m s = x, m t = y at hm h
  cases hm with
  | ok a e => cases h; exact ⟨_, rfl, e⟩
  | error d e =>
    cases d with
    | fault f => cases h; exact ⟨_, rfl, hE.stop e _⟩
    | refuse r => cases h

/-- Every instruction keeps a relation that the shared operations keep, if what it may read is held in common; the
traps push the whole PSW, and they and their returns load one. -/
theorem exec_alike (i : Instr) (h : ∀ r ∈ registersRead i, L r) (hload : loadsPsw i = true → Loadable E)
    (hpush : i = .bpt ∨ i = .iot → SamePsw E) {s t u : State} (e : E s t) (hu : exec i s = .next u) :
    ∃ v, exec i t = .next v ∧ E u v := by
  cases i with
  | br =>
    exact (alike_branchIf hE (byCodes_const _ : ByCodes condAlways) (h _ (List.mem_singleton_self _)) _).outcome hE e hu
  | bne | beq | bge | blt | bgt | ble | bpl | bmi | bhi | blos | bvc | bvs | bcc | bcs | bhis | blo =>
    have h7 : L .r7 := h _ (List.mem_singleton_self _)
    refine (alike_branchIf hE ?_ h7 _).outcome hE e hu
    intro p q hpq
    obtain ⟨hn, hz, hv, hc⟩ := sameCodes_iff_flags.mp hpq
    simp only [condNe, condEq, condGe, condLt, condGt, condLe, condPlus, condMinus, condHigher, condLowerSame,
      condOverflowClear, condOverflowSet, condCarryClear, condCarrySet, hn, hz, hv, hc]
  | cx | clc | clv | clz | cln | ccc => exact (alike_clearMask hE _).outcome hE e hu
  | sx | sec | sev | sez | sen | scc => exact (alike_setMask hE _).outcome hE e hu
  | halt | wait => exact (alike_stopCore hE _).outcome hE e hu
  | rti | rtt => exact (alike_trapReturn hE (hload rfl) (h _ (by decide))).outcome hE e hu
  | bpt | iot =>
    exact (alike_trapEntry hE (hpush (by decide)) (hload rfl) (h _ (by decide)) (h _ (by decide)) _).outcome hE e hu
  | reset | mark | mfpi | mtpi | mfpd | mtpd => exact (alike_unimplemented hE _).outcome hE e hu
  | nop => exact (alike_pure ()).outcome hE e hu
  | jmp o => exact ((alike_resolveJump hE h).bind fun _ => alike_writeReg hE _ _).outcome hE e hu
  | swab | com | comb | inc | incb | dec | decb | neg | negb | asr | asrb | asl | aslb =>
    exact (alike_readModifyWrite hE (fun _ => byCodes_const _) (fun _ _ => byCodes_const _) h).outcome hE e hu
  | adc | adcb =>
    exact (alike_readModifyWrite hE (byCodes_adcResult _) (byCodes_adcFlags _) h).outcome hE e hu
  | ror | rorb =>
    exact (alike_readModifyWrite hE (byCodes_rorResult _) (fun _ _ => byCodes_const _) h).outcome hE e hu
  | rol | rolb =>
    exact (alike_readModifyWrite hE (byCodes_rolResult _) (fun _ _ => byCodes_const _) h).outcome hE e hu
  | sbc | sbcb => exact (alike_subtractCarry hE h).outcome hE e hu
  | tst | tstb => exact (alike_readOnly hE h).outcome hE e hu
  | clr => exact (alike_writeOnly hE (byCodes_const _) (byCodes_const _) h (fun hw => by cases hw)).outcome hE e hu
  | sxt => exact (alike_writeOnly hE byCodes_sxtResult byCodes_sxtFlags h (fun hw => by cases hw)).outcome hE e hu
  | clrb =>
    obtain ⟨ho, hn⟩ := List.forall_mem_append.mp h
    exact (alike_writeOnly hE (byCodes_const _) (byCodes_const _) ho fun _ => hn).outcome hE e hu
  | mul =>
    obtain ⟨hr, ho⟩ := List.forall_mem_cons.mp h
    exact (alike_multiply hE hr ho).outcome hE e hu
  | ash =>
    obtain ⟨hr, ho⟩ := List.forall_mem_cons.mp h
    exact (alike_shiftArith hE hr ho).outcome hE e hu
  | xor =>
    obtain ⟨hr, ho⟩ := List.forall_mem_cons.mp h
    exact (alike_exclusiveOr hE hr ho).outcome hE e hu
  | div =>
    obtain ⟨hr, h⟩ := List.forall_mem_cons.mp h
    obtain ⟨hodd, ho⟩ := List.forall_mem_cons.mp h
    exact (alike_divide hE _ hr hodd ho).outcome hE e hu
  | ashc =>
    obtain ⟨hr, h⟩ := List.forall_mem_cons.mp h
    obtain ⟨hodd, ho⟩ := List.forall_mem_cons.mp h
    exact (alike_shiftArithCombined hE hr hodd ho).outcome hE e hu
  | sob r =>
    have hr : L r := h _ List.mem_cons_self
    have h7 : L .r7 := h _ (List.mem_cons_of_mem _ List.mem_cons_self)
    exact (alike_subtractOneBranch hE hr h7 _).outcome hE e hu
  | mov => exact (alike_moveTo hE (fun _ _ => alike_writeOp hE (fun hw => by cases hw) _) h).outcome hE e hu
  | movb => exact (alike_moveTo hE (alike_writeOpSext hE) h).outcome hE e hu
  | cmp | cmpb | bit | bitb => exact (alike_compareOnly hE h).outcome hE e hu
  | bic | bicb | bis | bisb | add | sub => exact (alike_combine hE h).outcome hE e hu
  | jsr => exact (alike_jumpSubroutine hE h).outcome hE e hu
  | rts r =>
    have hr : L r := h _ List.mem_cons_self
    have h6 : L .r6 := h _ (List.mem_cons_of_mem _ List.mem_cons_self)
    exact (alike_returnSubroutine hE hr h6).outcome hE e hu

/-! ### The step -/

theorem alike_fetchInstruction (h7 : L .r7) : Alike E fetchInstruction :=
  (alike_readReg hE h7).bind fun _ => (alike_fetchWord hE h7).bind fun _ => alike_pure _

theorem Lockstep.checkProgress (h7 : L .r7) {s t : State} (e : E s t) (a : Word) :
    E (checkProgress a s) (checkProgress a t) := by
  unfold Machine.checkProgress
  rw [hE.execState e, hE.params e, hE.reg e _ h7]
  split
  · exact hE.stop e _
  · exact e

/-- The cycle of a core that is Ready keeps the relation, if the instruction fetched reads what related states hold in
common. -/
theorem runCycle_alike (h7 : L .r7) (hload : Loadable E) (hpush : SamePsw E) {s t u : State} (e : E s t)
    (h : ∀ i, decodeWord (fetchValue s) = .ok i → ∀ r ∈ registersRead i, L r) (hu : runCycle s = .next u) :
    ∃ v, runCycle t = .next v ∧ E u v := by
  have hfetch := alike_fetchInstruction hE h7 s t e
  have hword := @fetchInstruction_ok s
  unfold runCycle at hu ⊢
  generalize fetchInstruction s = x, fetchInstruction t = y at hfetch hword hu
  cases hfetch with
  | error d e =>
    cases d with
    | fault f => cases hu; exact ⟨_, rfl, hE.stop e _⟩
    | refuse r => cases hu
  | @ok p s' t' e =>
    obtain ⟨a, ir⟩ := p
    rw [← hword rfl] at h
    simp only at hu ⊢
    cases hi : decodeWord ir with
    | error d => rw [hi] at hu; cases hu; exact ⟨_, rfl, hE.stop e _⟩
    | ok i =>
      simp only [hi] at hu ⊢
      cases hx : exec i s' with
      | fault f => rw [hx] at hu; cases hu
      | refused r => rw [hx] at hu; cases hu
      | next s'' =>
        obtain ⟨t'', ht, e⟩ := exec_alike hE i (h i hi) (fun _ => hload) (fun _ => hpush) e hx
        rw [hx] at hu; cases hu
        exact ⟨_, by rw [ht]; rfl, hE.checkProgress h7 e a⟩

/-- A step keeps the relation if the states at the start of the cycle have it, and the instruction fetched reads what they
hold in common. -/
theorem step_alike (h7 : L .r7) (hload : Loadable E) (hpush : SamePsw E) {s t u : State} (e : E s t)
    (eb : E (beginCycle s) (beginCycle t))
    (h : ∀ i, decodeWord (fetchValue (beginCycle s)) = .ok i → ∀ r ∈ registersRead i, L r) (hu : step s = .next u) :
    ∃ v, step t = .next v ∧ E u v := by
  unfold step at hu ⊢
  rw [hE.launchRefusal e, hE.faultStopped e]
  cases hr : launchRefusal s with
  | some r => simp [hr] at hu
  | none =>
    simp only [hr] at hu ⊢
    split at hu
    · next hs => cases hu; exact ⟨t, by rw [if_pos hs], e⟩
    · next hs => rw [if_neg hs]; exact runCycle_alike hE h7 hload hpush eb h hu

end pieces

end Sys2Proof.Machine
end

section
/-! Invariants of one run: relations on the diagonal, kept in lockstep. The claims that follow from three of them
(10_state.md R42, R53, 00_scope.md R6). -/

namespace Sys2Proof.Machine

open Sys2Proof.Claims

/-- The predicate survives every shared operation but the load of a whole PSW. -/
structure Stable (P : State → Prop) : Prop where
  writeReg   : ∀ {s}, P s → ∀ r v, P (s.setReg r v)
  writeCodes : ∀ {s}, P s → ∀ x, sameHigh s.psw x → P { s with psw := x }
  busRead    : ∀ {s}, P s → ∀ w a, P (afterRead s w a)
  busWrite   : ∀ {s}, P s → ∀ w a v, P (afterWrite s w a v)
  draw       : ∀ {s}, P s → P { s with draws := s.draws + 1 }
  stop       : ∀ {s}, P s → ∀ k, P (s.stop k)

/-- Two equal states that meet the predicate. -/
def onDiagonal (P : State → Prop) (s t : State) : Prop := t = s ∧ P s

/-- A run that keeps an invariant is in lockstep with itself. -/
theorem Stable.lockstep {P : State → Prop} (hP : Stable P) : Lockstep (fun _ => True) (onDiagonal P) where
  rest := by rintro _ s ⟨rfl, -⟩; rfl
  reg := by rintro _ s ⟨rfl, -⟩ r -; rfl
  codes := by rintro _ s ⟨rfl, -⟩; rfl
  writeReg := by rintro _ s ⟨rfl, h⟩ r v; exact ⟨rfl, hP.writeReg h r v⟩
  writeCodes := by
    rintro _ s ⟨rfl, h⟩ x y hx hy hxy
    have high : sameHigh x y := hy.trans hx.symm
    rw [eq_of_sameHigh_of_sameCodes high hxy]
    exact ⟨rfl, hP.writeCodes h x hx⟩
  busRead := by rintro _ s ⟨rfl, h⟩ w a; exact ⟨rfl, hP.busRead h w a⟩
  busWrite := by rintro _ s ⟨rfl, h⟩ w a v; exact ⟨rfl, hP.busWrite h w a v⟩
  draw := by rintro _ s ⟨rfl, h⟩; exact ⟨rfl, hP.draw h⟩
  stop := by rintro _ s ⟨rfl, h⟩ k; exact ⟨rfl, hP.stop h k⟩

theorem samePsw_onDiagonal (P : State → Prop) : SamePsw (onDiagonal P) := by rintro _ s ⟨rfl, -⟩; rfl

theorem loadable_onDiagonal {P : State → Prop} (h : ∀ s v, P s → P { s with psw := v }) : Loadable (onDiagonal P) := by
  rintro _ s v ⟨rfl, hs⟩; exact ⟨rfl, h s v hs⟩

/-- Every instruction keeps a stable predicate; one that loads the PSW needs it to survive the load. -/
theorem Stable.exec {P : State → Prop} (hP : Stable P) {i : Instr} {s t : State}
    (hload : loadsPsw i = true → ∀ s v, P s → P { s with psw := v }) (hs : P s) (h : exec i s = .next t) : P t := by
  obtain ⟨_, _, _, ht⟩ := exec_alike hP.lockstep i (fun _ _ => trivial) (fun hi => loadable_onDiagonal (hload hi))
    (fun _ => samePsw_onDiagonal P) ⟨rfl, hs⟩ h
  exact ht

/-- Every step keeps a stable predicate that survives the load of a PSW and the start of a cycle. -/
theorem Stable.step {P : State → Prop} (hP : Stable P) (hload : ∀ s v, P s → P { s with psw := v })
    (hbegin : ∀ s, P s → P (beginCycle s)) {s t : State} (hs : P s) (h : step s = .next t) : P t := by
  obtain ⟨_, _, _, ht⟩ := step_alike hP.lockstep trivial (loadable_onDiagonal hload) (samePsw_onDiagonal P) ⟨rfl, hs⟩
    ⟨rfl, hbegin s hs⟩ (fun _ _ _ _ => trivial) h
  exact ht

/-- The state has the handler tables and the launch parameters of another. -/
def launchedAs (s₀ s : State) : Prop :=
  s.devRead = s₀.devRead ∧ s.devWrite = s₀.devWrite ∧ s.params = s₀.params

theorem stable_launchedAs (s₀ : State) : Stable (launchedAs s₀) where
  writeReg h _ _ := h
  writeCodes h _ _ := h
  busRead h w a := by simpa [launchedAs] using h
  busWrite h w a v := by simpa [launchedAs] using h
  draw h := h
  stop h _ := h

theorem stable_written (r : Reg) : Stable (State.written · r = true) where
  writeReg h q v := by simp [h]
  writeCodes h _ _ := h
  busRead h w a := by simpa using h
  busWrite h w a v := by simpa using h
  draw h := h
  stop h _ := h

theorem stable_sameHigh (p : Word) : Stable (sameHigh p ·.psw) where
  writeReg h _ _ := h
  writeCodes h _ hx := hx.trans h
  busRead h w a := by simpa using h
  busWrite h w a v := by simpa using h
  draw h := h
  stop h _ := h

/-- Starting a cycle resumes the core and marks it started; nothing else. -/
theorem beginCycle_eq (s : State) :
    beginCycle s = { s with execState := (resume s).execState, started := true } := by
  unfold beginCycle resume; split <;> rfl

/-- Settles O54: equality of PSW bits 15-4 with those before is stable. -/
theorem onlyTrapsAndReturnsWritePswHighBits : Obligations.OnlyTrapsAndReturnsWritePswHighBits := by
  intro i s t h hi
  exact (stable_sameHigh s.psw).exec (fun hl => by rw [hi] at hl; cases hl) rfl h

/-- Settles O56: the handler tables and the launch parameters are stable. -/
theorem stepsKeepTheLaunch : Obligations.StepsKeepTheLaunch := by
  intro s t h
  refine (stable_launchedAs s).step (fun _ _ hs => hs) (fun u hu => ?_) ⟨rfl, rfl, rfl⟩ h
  rw [beginCycle_eq]; exact hu

end Sys2Proof.Machine
end

section
/-! States that differ in PSW bits 15-4 only stay in lockstep (10_state.md R43 to R46). -/

namespace Sys2Proof.Machine

open Sys2Proof.Claims

/-- The states differ in PSW bits 15-4 only. -/
def sameButHigh (s t : State) : Prop := ∃ p, t = { s with psw := p } ∧ sameCodes s.psw p

theorem sameButHigh_withHigh (h : BitVec 12) (s : State) : sameButHigh s (withHigh h s) :=
  ⟨_, rfl, BitVec.extractLsb'_append_eq_right⟩

theorem withHigh_eq_of_sameButHigh {s t : State} (e : sameButHigh s t) (h : BitVec 12) : withHigh h t = withHigh h s := by
  obtain ⟨p, rfl, hp⟩ := e
  simp only [withHigh, show p.extractLsb' 0 4 = s.psw.extractLsb' 0 4 from hp]

theorem afterRead_setPsw (s : State) (p : Word) (w : Width) (a : Word) :
    afterRead { s with psw := p } w a = { afterRead s w a with psw := p } := by
  unfold afterRead
  rw [show State.routedRead { s with psw := p } a = s.routedRead a from rfl]
  split <;> rfl

theorem afterWrite_setPsw (s : State) (p : Word) (w : Width) (a v : Word) :
    afterWrite { s with psw := p } w a v = { afterWrite s w a v with psw := p } := by
  unfold afterWrite
  rw [show State.routedWrite { s with psw := p } a = s.routedWrite a from rfl]
  split
  · rfl
  · cases w <;> rfl

theorem lockstep_sameButHigh : Lockstep (fun _ => True) sameButHigh where
  rest := by rintro s _ ⟨p, rfl, h⟩; rfl
  reg := by rintro s _ ⟨p, rfl, h⟩ r -; rfl
  codes := by rintro s _ ⟨p, rfl, h⟩; exact h
  writeReg := by rintro s _ ⟨p, rfl, h⟩ r v; exact ⟨p, rfl, h⟩
  writeCodes := by rintro s _ ⟨p, rfl, h⟩ x y - - hxy; exact ⟨y, rfl, hxy⟩
  busRead := by rintro s _ ⟨p, rfl, h⟩ w a; exact ⟨p, afterRead_setPsw s p w a, by simpa using h⟩
  busWrite := by rintro s _ ⟨p, rfl, h⟩ w a v; exact ⟨p, afterWrite_setPsw s p w a v, by simpa using h⟩
  draw := by rintro s _ ⟨p, rfl, h⟩; exact ⟨p, rfl, h⟩
  stop := by rintro s _ ⟨p, rfl, h⟩ k; exact ⟨p, rfl, h⟩

theorem loadable_sameButHigh : Loadable sameButHigh := by
  rintro s _ v ⟨p, rfl, h⟩; exact ⟨v, rfl, rfl⟩

/-- Settles O55: states that differ in PSW bits 15-4 only stay in lockstep. -/
theorem pswHighBitsHaveNoEffect : Obligations.PswHighBitsHaveNoEffect := by
  intro i s t h hbpt hiot ht
  obtain ⟨u, hu, e⟩ := exec_alike lockstep_sameButHigh i (fun _ _ => trivial) (fun _ => loadable_sameButHigh)
    (fun hi => (hi.elim hbpt hiot).elim) (sameButHigh_withHigh h s) ht
  exact ⟨u, hu, withHigh_eq_of_sameButHigh e 0⟩

end Sys2Proof.Machine
end

section
/-! States that differ in what unwritten registers hold stay in lockstep (10_state.md R31, R32; log 1). -/

namespace Sys2Proof.Machine

theorem afterRead_refill (f : Reg → Word) (s : State) (w : Width) (a : Word) :
    afterRead (s.refill f) w a = (afterRead s w a).refill f := by
  unfold afterRead
  rw [show (s.refill f).routedRead a = s.routedRead a from rfl]
  split <;> rfl

theorem afterWrite_refill (f : Reg → Word) (s : State) (w : Width) (a v : Word) :
    afterWrite (s.refill f) w a v = (afterWrite s w a v).refill f := by
  unfold afterWrite
  rw [show (s.refill f).routedWrite a = s.routedWrite a from rfl]
  split
  · rfl
  · cases w <;> rfl

/-- The second state is the first with other values in the registers that nothing has written; those of `L` are
written. -/
def refilled (f : Reg → Word) (L : Reg → Prop) (s t : State) : Prop :=
  t = s.refill f ∧ ∀ r, L r → s.written r = true

theorem lockstep_refilled (f : Reg → Word) (L : Reg → Prop) : Lockstep L (refilled f L) where
  rest := by rintro s _ ⟨rfl, -⟩; rfl
  reg := by rintro s _ ⟨rfl, h⟩ r hr; rw [reg_refill, if_pos (h r hr)]
  codes := by rintro s _ ⟨rfl, -⟩; rfl
  writeReg := by
    rintro s _ ⟨rfl, h⟩ r v
    exact ⟨(refill_setReg f s r v).symm, fun q hq => (stable_written q).writeReg (h q hq) r v⟩
  writeCodes := by
    rintro s _ ⟨rfl, h⟩ x y hx hy hxy
    have high : sameHigh x y := hy.trans hx.symm
    rw [eq_of_sameHigh_of_sameCodes high hxy]
    exact ⟨rfl, h⟩
  busRead := by
    rintro s _ ⟨rfl, h⟩ w a
    exact ⟨afterRead_refill f s w a, fun q hq => (stable_written q).busRead (h q hq) w a⟩
  busWrite := by
    rintro s _ ⟨rfl, h⟩ w a v
    exact ⟨afterWrite_refill f s w a v, fun q hq => (stable_written q).busWrite (h q hq) w a v⟩
  draw := by rintro s _ ⟨rfl, h⟩; exact ⟨rfl, h⟩
  stop := by rintro s _ ⟨rfl, h⟩ k; exact ⟨rfl, h⟩

theorem samePsw_refilled (f : Reg → Word) (L : Reg → Prop) : SamePsw (refilled f L) := by rintro s _ ⟨rfl, -⟩; rfl

theorem loadable_refilled (f : Reg → Word) (L : Reg → Prop) : Loadable (refilled f L) := by
  rintro s _ v ⟨rfl, h⟩; exact ⟨rfl, h⟩

theorem refill_beginCycle (f : Reg → Word) (s : State) : beginCycle (s.refill f) = (beginCycle s).refill f := by
  unfold beginCycle resume
  rw [show (s.refill f).execState = s.execState from rfl]
  split <;> rfl

theorem written_of_allWritten {s : State} {l : List Reg} (h : allWritten s l = true) : ∀ r ∈ l, s.written r = true :=
  List.all_eq_true.mp h

/-- With other values in the unmarked registers an instruction that may read marked registers only does the same. -/
theorem exec_refill {i : Instr} {s t : State} (f : Reg → Word) (hw : allWritten s (registersRead i) = true)
    (h : exec i s = .next t) : exec i (s.refill f) = .next (t.refill f) := by
  obtain ⟨_, hv, rfl, -⟩ := exec_alike (lockstep_refilled f (s.written · = true)) i (written_of_allWritten hw)
    (fun _ => loadable_refilled _ _) (fun _ => samePsw_refilled _ _) ⟨rfl, fun _ hr => hr⟩ h
  exact hv

/-- So does a step from a marked PC whose instruction may read marked registers only. -/
theorem step_refill {s t : State} (f : Reg → Word) (h7 : s.written .r7 = true)
    (hw : ∀ i, decodeWord (fetchValue (beginCycle s)) = .ok i → allWritten s (registersRead i) = true)
    (h : step s = .next t) : step (s.refill f) = .next (t.refill f) := by
  have begun : refilled f (s.written · = true) (beginCycle s) (beginCycle (s.refill f)) :=
    ⟨refill_beginCycle f s, fun r hr => by rw [beginCycle_eq]; exact hr⟩
  obtain ⟨_, hv, rfl, -⟩ := step_alike (lockstep_refilled f (s.written · = true)) h7 (loadable_refilled _ _)
    (samePsw_refilled _ _) ⟨rfl, fun _ hr => hr⟩ begun (fun i hi => written_of_allWritten (hw i hi)) h
  exact hv

/-- Settles O13: reads and writes by their equations, marks as a stable predicate, and the states with other values in
unmarked registers in lockstep. -/
theorem unwrittenRegistersHaveNoInfluence : Obligations.UnwrittenRegistersHaveNoInfluence := by
  refine ⟨fun s r v => ⟨readReg_apply s r, s.setReg r v, writeReg_apply s r v, ?_, ?_, fun q hq => ⟨?_, ?_⟩, rfl⟩,
    fun i s t r h hw => (stable_written r).exec (fun _ _ _ hs => hs) hw h,
    fun i s t f hw h => exec_refill f hw h, fun s t f h7 hw h => step_refill f h7 hw h⟩
  · simp
  · simp
  · simp [hq]
  · simp [hq]

end Sys2Proof.Machine
end

section
/-! Resolution and the PC (30_encoding.md R111, 40_addressing_modes.md R164). -/

namespace Sys2Proof.Machine

/-- Settles O19: `resolve_ok`, then the register that each mode's state change leaves. -/
theorem resolutionAdvancesThePcByItsExtensionWords : Obligations.ResolutionAdvancesThePcByItsExtensionWords := by
  intro s o w h hdec
  refine ⟨_, _, resolve_ok w h, ?_⟩
  obtain ⟨m, r⟩ := o
  cases m <;> simp only [afterResolve, afterFetch, Specifier.extensionWords, reg_setReg, reg_afterRead]
  case register | deferred => simp
  case autoInc | autoIncDeferred =>
    by_cases hr : r = .r7
    · subst hr; simp [stepOf]
    · simp [hr, Ne.symm hr]
  case autoDec =>
    have hr : r ≠ .r7 := fun e => (hdec e).1 rfl
    simp [Ne.symm hr]
  case autoDecDeferred =>
    have hr : r ≠ .r7 := fun e => (hdec e).2 rfl
    simp [Ne.symm hr]
  case index | indexDeferred => simp

end Sys2Proof.Machine
end

section
/-! The invariant of the machine as a stable predicate (20_memory.md R73, R80, 48_cpu_driver.md R410). -/

namespace Sys2Proof.Machine

/-- The launch is judged by the parameters and the handler tables alone. -/
theorem launchedAs.launchRefusal {s t : State} (h : launchedAs s t) : launchRefusal t = launchRefusal s := by
  obtain ⟨hr, hw, hp⟩ := h
  simp only [Machine.launchRefusal, hr, hw, hp]

/-- The invariant passes to a state with canonical memory, the same bus lock, launch and run control. -/
theorem Inv.of_same {s t : State} (h : Inv s) (hm : t.mem.wf = true) (hb : t.busLock = s.busLock)
    (hl : launchedAs s t) (hx : t.execState = s.execState) (hf : t.runFlag = s.runFlag) : Inv t := by
  obtain ⟨-, hfree, hlegal, hstop⟩ := h
  exact ⟨hm, hb.trans hfree, by simpa only [launchLegal, hl.launchRefusal] using hlegal,
    by simpa only [stopClearsFlag, continues, hx, hf] using hstop⟩

/-- A bus write may change memory, which stays canonical; a stop clears the Run Flag. -/
theorem stable_inv : Stable Inv where
  writeReg h _ _ := h
  writeCodes h _ _ := h
  busRead h w a :=
    h.of_same (by simpa using h.1) (by simp) (by simp [launchedAs]) (by simp) (by simp)
  busWrite h w a v :=
    h.of_same (afterWrite_wf _ w a v h.1) (by simp) (by simp [launchedAs]) (by simp) (by simp)
  draw h := h
  stop h k := by
    obtain ⟨hm, hfree, hlegal, -⟩ := h
    exact ⟨hm, hfree, hlegal, by simp [stopClearsFlag]⟩

/-- The start of a cycle leaves the core ready, or stopped by a fault as it was. -/
theorem inv_beginCycle (s : State) (h : Inv s) : Inv (beginCycle s) := by
  obtain ⟨hm, hfree, hlegal, hstop⟩ := h
  rw [beginCycle_eq]
  refine ⟨hm, hfree, hlegal, ?_⟩
  unfold resume
  split
  · rfl
  · rfl
  · exact hstop
  · exact hstop

/-- Settles O8: the invariant is stable, and survives the load of a PSW and the start of a cycle. -/
theorem stepKeepsTheInvariant : Obligations.StepKeepsTheInvariant := fun _ _ hs h =>
  stable_inv.step (fun _ _ hp => hp) inv_beginCycle hs h

end Sys2Proof.Machine
end

section
/-! Routing on the bus and the bytes of the array, in the spelling of 20_memory.md R74 to R79. -/

namespace Sys2Proof.Machine

open Sys2Proof.Claims

/-! ### Routing -/

theorem routedRead_iff {s : State} {a : Word} : s.routedRead a = true ↔ (a &&& 0o177776) ∈ s.devRead :=
  List.contains_iff_mem

theorem routedWrite_iff {s : State} {a : Word} : s.routedWrite a = true ↔ (a &&& 0o177776) ∈ s.devWrite :=
  List.contains_iff_mem

/-- Only the parity of a word access is restricted (R76). -/
theorem aligned_iff {w : Width} {a : Word} : aligned w a = true ↔ (w = .word → isOddAddr a = false) := by
  cases w <;> simp [aligned]

theorem afterRead_array {s : State} {w : Width} {a : Word} (h : s.routedRead a = false) : afterRead s w a = s := by
  simp [afterRead, h]

theorem busValue_array {s : State} {w : Width} {a : Word} (h : s.routedRead a = false) :
    busValue s w a = s.arrayRead w a := by
  simp [busValue, h]

theorem afterWrite_array {s : State} {w : Width} {a v : Word} (h : s.routedWrite a = false) :
    afterWrite s w a v = s.arrayWrite w a v := by
  simp [afterWrite, h]

theorem afterWrite_routed {s : State} {w : Width} {a v : Word} (h : s.routedWrite a = true) :
    afterWrite s w a v = { s with devCalls := ⟨.write, a, w, truncTo w v⟩ :: s.devCalls } := by
  simp [afterWrite, h]

/-- A routed read answers the masked value that its one handler call records (R78). -/
theorem memRead_routed {s : State} {w : Width} {a : Word} (ha : aligned w a = true) (hb : busFree s = true)
    (h : s.routedRead a = true) : ∃ d, memRead w a s =
      .ok (truncTo w d) { s with draws := s.draws + 1, devCalls := ⟨.read, a, w, truncTo w d⟩ :: s.devCalls } :=
  ⟨Config.deviceRead s.draws, by simp [memRead_ok ha hb, busValue, afterRead, h]⟩

/-! ### Values as numbers -/

theorem lowByte_eq_ofNat (v : Word) : lowByte v = BitVec.ofNat 8 v.toNat := by
  simp [lowByte, BitVec.extractLsb']

theorem highByte_eq_ofNat (v : Word) : highByte v = BitVec.ofNat 8 (v.toNat / 256) := by
  simp [highByte, BitVec.extractLsb', Nat.shiftRight_eq_div_pow]

theorem wordOfBytes_eq_ofNat (lo hi : Byte) : wordOfBytes lo hi = BitVec.ofNat 16 (lo.toNat + 256 * hi.toNat) := by
  apply BitVec.eq_of_toNat_eq
  have hlt := lo.isLt
  simp only [wordOfBytes, BitVec.toNat_append, BitVec.toNat_ofNat]
  rw [← Nat.shiftLeft_add_eq_or_of_lt hlt, Nat.shiftLeft_eq]
  omega

theorem wordOfBytes_lowByte_highByte (v : Word) : wordOfBytes (lowByte v) (highByte v) = v :=
  BitVec.extractLsb'_append_extractLsb'

theorem truncTo_byte_lt (v : Word) : (truncTo .byte v).toNat < 256 := by
  have : v.toNat &&& 255 ≤ 255 := Nat.and_le_right
  simpa [truncTo, maskOf] using Nat.lt_succ_of_le this

theorem truncTo_eq_and_sized (w : Width) (v : Word) : truncTo w v = v &&& sized w 0o377 0o177777 := by
  cases w <;> rfl

theorem arrayRead_eq_sized (s : State) (w : Width) (a : Word) :
    s.arrayRead w a = sized w ((s.byteAt a).setWidth 16)
      (BitVec.ofNat 16 ((s.byteAt a).toNat + 256 * (s.byteAt (a + 1)).toNat)) := by
  cases w
  · rfl
  · exact wordOfBytes_eq_ofNat _ _

/-- Settles O10: `memRead_ok` with the address routed or not. -/
theorem busReadsRouteByWordAddress : Obligations.BusReadsRouteByWordAddress := by
  intro s w a hb ha
  rw [← aligned_iff] at ha
  rw [← routedRead_iff]
  refine ⟨fun hr => ?_, fun hr => ?_⟩
  · rw [Bool.not_eq_true] at hr
    rw [memRead_ok ha hb, busValue_array hr, afterRead_array hr, arrayRead_eq_sized]
  · obtain ⟨d, hd⟩ := memRead_routed ha hb hr
    exact ⟨_, fun hw => hw ▸ truncTo_byte_lt d, hd⟩

/-- Settles O11: `memWrite_ok` at a routed address. -/
theorem routedWritesBypassTheArray : Obligations.RoutedWritesBypassTheArray := by
  intro s w a v hb ha hr
  rw [memWrite_ok (aligned_iff.mpr ha) hb, afterWrite_routed (routedWrite_iff.mpr hr), truncTo_eq_and_sized]

/-! ### Array writes -/

theorem arrayWrite_eq (s : State) (w : Width) (a v : Word) :
    s.arrayWrite w a v = { s with mem := (s.arrayWrite w a v).mem } := by
  cases w <;> rfl

theorem byteAt_arrayWrite_byte {s : State} (a v : Word) (h : s.mem.wf = true) :
    (s.arrayWrite .byte a v).byteAt a = lowByte v :=
  byteAt_setByte_same s a _ h

theorem byteAt_arrayWrite_low {s : State} (a v : Word) (h : s.mem.wf = true) :
    (s.arrayWrite .word a v).byteAt a = lowByte v :=
  (byteAt_setByte_other _ _ _ _ (by bv_omega)).trans (byteAt_setByte_same s a _ h)

theorem byteAt_arrayWrite_high {s : State} (a v : Word) (h : s.mem.wf = true) :
    (s.arrayWrite .word a v).byteAt (a + 1) = highByte v :=
  byteAt_setByte_same _ _ _ (setByte_wf s a _ h)

theorem arrayRead_arrayWrite_word {s : State} (a v : Word) (h : s.mem.wf = true) :
    (s.arrayWrite .word a v).arrayRead .word a = v := by
  rw [State.arrayRead, byteAt_arrayWrite_low a v h, byteAt_arrayWrite_high a v h, wordOfBytes_lowByte_highByte]

/-- Settles O9: the state after an unrouted write is `arrayWrite`, whose bytes the lemmas above give. -/
theorem arrayWritesAreLittleEndian : Obligations.ArrayWritesAreLittleEndian := by
  intro s a v hm hb hw
  refine ⟨fun ha => ⟨s.arrayWrite .word a v, ?_, ?_, ?_, fun c h₀ h₁ => ?_, arrayWrite_eq s _ a v,
      arrayWrite_wf s _ a v hm, fun hr => ?_⟩,
    s.arrayWrite .byte a v, ?_, ?_, fun c h₀ => ?_, arrayWrite_eq s _ a v, arrayWrite_wf s _ a v hm⟩
  · rw [memWrite_ok (aligned_word ha) hb, afterWrite_array hw]
  · rw [byteAt_arrayWrite_low a v hm, lowByte_eq_ofNat]
  · rw [byteAt_arrayWrite_high a v hm, highByte_eq_ofNat]
  · exact byteAt_arrayWrite_other s _ a v c (by
      simp only [bytesAt, List.mem_cons, h₀, h₁, List.not_mem_nil, or_self, not_false_eq_true])
  · have hr' : (s.arrayWrite .word a v).routedRead a = false := by simpa using hr
    rw [memRead_ok (aligned_word ha) (by simpa using hb), busValue_array hr', afterRead_array hr',
      arrayRead_arrayWrite_word a v hm]
  · rw [memWrite_ok rfl hb, afterWrite_array hw]
  · rw [byteAt_arrayWrite_byte a v hm, lowByte_eq_ofNat]
  · exact byteAt_arrayWrite_other s _ a v c (by simp [bytesAt, h₀])

/-! ### Odd word accesses -/

theorem isOddAddr_sub_two (a : Word) : isOddAddr (a - 2) = isOddAddr a := by
  rw [BitVec.sub_eq_add_neg]
  simp [isOddAddr, BitVec.getLsbD, BitVec.toNat_add, Nat.testBit_zero, Nat.add_mod]

theorem pop_odd {s : State} (h : isOddAddr (s.reg .r6) = true) :
    pop s = .error (.fault (.busFault .oddAddress (s.reg .r6))) s := by
  simp only [pop, bind_apply, readReg_apply, memRead_odd h]

/-- SP is already 2 lower when the write raises (00_scope.md R15). -/
theorem push_odd {s : State} (v : Word) (h : isOddAddr (s.reg .r6) = true) :
    push v s = .error (.fault (.busFault .oddAddress (s.reg .r6 - 2))) (s.setReg .r6 (s.reg .r6 - 2)) := by
  have h' : isOddAddr (s.reg .r6 - 2) = true := by rwa [isOddAddr_sub_two]
  simp only [push, bind_apply, readReg_apply, writeReg_apply, memWrite_odd h']

/-- Settles O12: each access and stack operation at an odd address; a byte access is always aligned. -/
theorem oddWordAccessesRaise : Obligations.OddWordAccessesRaise :=
  ⟨fun _ _ _ h => ⟨memRead_odd h, memWrite_odd h⟩, fun _ h => fetchWord_odd h,
    fun _ h => ⟨pop_odd h, fun v => push_odd v h⟩,
    fun _ _ _ hb => ⟨⟨_, _, memRead_ok rfl hb⟩, _, memWrite_ok rfl hb⟩⟩

end Sys2Proof.Machine
end

section
/-! Instructions that write their destination without reading it (40_addressing_modes.md R175): where their accesses go
through they complete, and a routed destination takes one handler call (20_memory.md R83). -/

namespace Sys2Proof.Machine

/-! ### The instructions that go through -/

/-- A destination that is written only needs its own accesses, not a read. -/
theorem writeOnly_ok {s : State} {o : Specifier} {w : Width} (f : Word → Word) (flags : Word → Pattern)
    (h : specReady s o w = true) :
    writeOnly w o f flags s =
      .ok () ((afterWriteOp (afterResolve s o w) (operandOf s o w) w (f s.psw)).setFlags (flags s.psw)) := by
  simp only [specReady, Bool.and_eq_true] at h
  obtain ⟨hres, hacc⟩ := h
  simp only [writeOnly, bind_apply, resolve_ok w hres, readPsw_apply, psw_afterResolve, writeOp_ok _ hacc,
    setFlags_apply]

/-- The source resolved and read, then the destination resolved and written by `write`. -/
theorem moveTo_ok {s t : State} {src dst : Specifier} {w : Width} {write : Operand → Word → Exec Unit}
    (hsrc : specReady s src w = true) (hdst : resolvable (readSpec s src w).after dst = true)
    (hw : write (operandOf (readSpec s src w).after dst w) (readSpec s src w).value
      (afterResolve (readSpec s src w).after dst w) = .ok () t) :
    moveTo w src dst write s = .ok () (t.setFlags (logicFlags w (readSpec s src w).value)) := by
  simp only [moveTo, bind_apply, resolve_of_ready hsrc, readOp_of_ready hsrc, resolve_ok w hdst, hw, setFlags_apply]

/-! ### A routed destination -/

theorem operandOf_of_ne_register {s : State} {o : Specifier} {w : Width} (h : o.mode ≠ .register) :
    operandOf s o w = .mem (effAddr s o w) :=
  if_neg h

theorem specReady_of_aligned {s : State} {o : Specifier} {w : Width} (hm : o.mode ≠ .register)
    (hres : resolvable s o = true) (ha : aligned w (effAddr s o w) = true) : specReady s o w = true := by
  simp [specReady, hres, operandOf_of_ne_register hm, canAccess, busFree_of_resolvable hres, ha]

/-- A write to a routed address leaves one handler call more, no value drawn and memory as it was, whatever the flags. -/
theorem setFlags_afterWrite_routed {u : State} {a : Word} (w : Width) (v : Word) (q : Pattern)
    (h : u.routedWrite a = true) :
    ((afterWrite u w a v).setFlags q).mem = u.mem ∧ ((afterWrite u w a v).setFlags q).draws = u.draws ∧
    ((afterWrite u w a v).setFlags q).devCalls = ⟨.write, a, w, truncTo w v⟩ :: u.devCalls := by
  simp [afterWrite_routed h]

@[simp] theorem truncTo_readSpec_value (s : State) (o : Specifier) (w : Width) :
    truncTo w (readSpec s o w).value = (readSpec s o w).value :=
  truncTo_valueOf _ _ _

section routed

variable {x : State} {dst : Specifier} {w : Width} (hm : dst.mode ≠ .register) (hres : resolvable x dst = true)
  (ha : aligned w (effAddr x dst w) = true) (hr : (afterResolve x dst w).routedWrite (effAddr x dst w) = true)
include hm hres ha hr

/-- CLR and SXT call the writer of a routed destination once. -/
theorem finish_writeOnly_routed (f : Word → Word) (flags : Word → Pattern) :
    ∃ t, finish (writeOnly w dst f flags) x = .next t ∧ t.mem = x.mem ∧ t.draws = (afterResolve x dst w).draws ∧
      t.devCalls = ⟨.write, effAddr x dst w, w, truncTo w (f x.psw)⟩ :: (afterResolve x dst w).devCalls := by
  refine ⟨_, finish_ok (writeOnly_ok f flags (specReady_of_aligned hm hres ha)), ?_⟩
  simpa [operandOf_of_ne_register hm, afterWriteOp] using setFlags_afterWrite_routed w (f x.psw) (flags x.psw) hr

/-- MOV and MOVB call the writer of a routed destination once, after their source is read. -/
theorem finish_moveTo_routed {s : State} {src : Specifier} {write : Operand → Word → Exec Unit}
    (hx : x = (readSpec s src w).after) (hsrc : specReady s src w = true)
    (hw : ∀ ea v, write (.mem ea) v = memWrite w ea v) :
    ∃ t, finish (moveTo w src dst write) s = .next t ∧ t.mem = s.mem ∧ t.draws = (afterResolve x dst w).draws ∧
      t.devCalls = ⟨.write, effAddr x dst w, w, (readSpec s src w).value⟩ :: (afterResolve x dst w).devCalls := by
  subst hx
  have hb := (busFree_afterResolve _ dst w).trans (busFree_of_resolvable hres)
  have hwrite := memWrite_ok (v := (readSpec s src w).value) ha hb
  rw [← hw, ← operandOf_of_ne_register hm] at hwrite
  refine ⟨_, finish_ok (moveTo_ok hsrc hres hwrite), ?_⟩
  simpa using setFlags_afterWrite_routed w (readSpec s src w).value (logicFlags w (readSpec s src w).value) hr

end routed

/-- Settles O45: CLR, CLRB and SXT are `writeOnly`, MOV and MOVB are `moveTo`, each with one call to a routed writer. -/
theorem writeOnlyDestinationsAreNotRead : Obligations.WriteOnlyDestinationsAreNotRead := by
  intro s dst hm
  refine ⟨fun hres ha hr => ?_, fun hres ha hr => ?_, fun hres ha hr => ?_, fun src =>
    ⟨fun hs hres ha hr => ?_, fun hs hres ha hr => ?_⟩⟩
  · exact finish_writeOnly_routed hm hres ha hr (fun _ => 0) fun _ => clrFlags
  · exact finish_writeOnly_routed hm hres ha hr (fun _ => 0) fun _ => clrFlags
  · have h := finish_writeOnly_routed hm hres ha hr sxtResult sxtFlags
    simp only [truncTo_word] at h
    exact h
  · exact finish_moveTo_routed hm hres ha hr rfl hs fun _ _ => rfl
  · exact finish_moveTo_routed hm hres ha hr rfl hs fun _ _ => rfl

end Sys2Proof.Machine
end

section
/-! Frames of whole instructions from the frames of their pieces, and those of the instructions that only set flags
(43_single_operand.md R266, 45_ssdd.md R342, R343). -/

namespace Sys2Proof.Machine

open Sys2Proof.Claims

/-- The frame of an instruction: that of its pieces, and a fault stops the core. -/
theorem Keeps.frame {l : List Reg} {q : Word → Word → Prop} {b : Word → Prop} {m : Exec Unit} (hm : Keeps l q b m)
    {s t : State} (h : finish m s = .next t) :
    keepsRegs s t l ∧ keepsBytes s t b ∧ q s.psw t.psw ∧ keepsLaunch s t ∧ keepsRun s t := by
  obtain ⟨u, hu, ht⟩ := Ends.of_finish h
  have k := hm s u hu
  rcases ht with rfl | ⟨f, rfl⟩
  · exact ⟨k.regs, k.bytes, k.psw, ⟨k.read, k.write, k.prm, k.lock, k.start⟩, .inl ⟨k.exec, k.flag⟩⟩
  · exact ⟨k.regs, k.bytes, k.psw, ⟨k.read, k.write, k.prm, k.lock, k.start⟩, .inr ⟨f, rfl, rfl⟩⟩

theorem sameHigh_refl (p : Word) : sameHigh p p := rfl

theorem sameHigh_trans (p q r : Word) (h : sameHigh p q) (k : sameHigh q r) : sameHigh p r := k.trans h

/-- PSW bits 15-4 and C are the same. -/
def sameHighC (p q : Word) : Prop := sameHigh p q ∧ flagC q = flagC p

theorem sameHighC_refl (p : Word) : sameHighC p p := ⟨rfl, rfl⟩

theorem sameHighC_trans (p q r : Word) (h : sameHighC p q) (k : sameHighC q r) : sameHighC p r :=
  ⟨k.1.trans h.1, k.2.trans h.2⟩

/-- A pattern that leaves C. -/
theorem sameHighC_applyPattern {a : Pattern} (h : a.c = none) (p : Word) : sameHighC p (applyPattern a p) :=
  ⟨sameHigh_applyPattern a p, by simp [h]⟩

section pieces

variable {l : List Reg} {q : Word → Word → Prop} {b : Word → Prop} (hr : ∀ x, q x x)
  (ht : ∀ x y z, q x y → q y z → q x z)
include hr ht

theorem keeps_readOnly {w : Width} {o : Specifier} {flags : Word → Pattern} (ho : ∀ r ∈ steppedBy o, r ∈ l)
    (hf : ∀ d x, q x (applyPattern (flags d) x)) : Keeps l q b (readOnly w o flags) :=
  (keeps_resolve hr ht o w ho).bind ht fun _ => (keeps_readOp hr ht _ w).bind ht fun _ => keeps_setFlags _ (hf _)

theorem keeps_compareOnly {w : Width} {src dst : Specifier} {flags : Word → Word → Pattern}
    (hl : ∀ r ∈ steppedBy src ++ steppedBy dst, r ∈ l) (hf : ∀ a d x, q x (applyPattern (flags a d) x)) :
    Keeps l q b (compareOnly w src dst flags) := by
  obtain ⟨hs, hd⟩ := List.forall_mem_append.mp hl
  exact (keeps_resolve hr ht src w hs).bind ht fun _ => (keeps_readOp hr ht _ w).bind ht fun _ =>
    (keeps_resolve hr ht dst w hd).bind ht fun _ => (keeps_readOp hr ht _ w).bind ht fun _ => keeps_setFlags _ (hf _ _)

end pieces

/-! ### The instructions by width -/

theorem exec_tst (w : Width) (o : Specifier) (s : State) :
    exec (sized w (.tstb o) (.tst o)) s = finish (readOnly w o (tstFlags w)) s := by
  cases w <;> rfl

theorem exec_cmp (w : Width) (src dst : Specifier) (s : State) : exec (sized w (.cmpb src dst) (.cmp src dst)) s =
    finish (compareOnly w src dst fun a d => cmpFlags w a d (cmpResult w a d)) s := by
  cases w <;> rfl

theorem exec_bit (w : Width) (src dst : Specifier) (s : State) : exec (sized w (.bitb src dst) (.bit src dst)) s =
    finish (compareOnly w src dst fun a d => logicFlags w (a &&& d)) s := by
  cases w <;> rfl

/-- Settles O49: the frames of `readOnly` and `compareOnly`; the pattern of BIT leaves C. -/
theorem frameOfReadOnlyInstructions : Obligations.FrameOfReadOnlyInstructions := by
  rintro s t w src dst i l (⟨rfl, rfl⟩ | ⟨rfl, rfl⟩ | ⟨rfl, rfl⟩) h
  · rw [exec_tst] at h
    obtain ⟨hregs, hbytes, hpsw, hlaunch, hrun⟩ :=
      (keeps_readOnly (b := noBytes) sameHigh_refl sameHigh_trans (fun _ => List.mem_cons_of_mem _)
        fun _ => sameHigh_applyPattern _).frame h
    exact ⟨hregs, hbytes, hpsw, hlaunch, hrun, fun e => by cases w <;> cases e⟩
  · rw [exec_cmp] at h
    obtain ⟨hregs, hbytes, hpsw, hlaunch, hrun⟩ :=
      (keeps_compareOnly (b := noBytes) sameHigh_refl sameHigh_trans (fun _ => List.mem_cons_of_mem _)
        fun _ _ => sameHigh_applyPattern _).frame h
    exact ⟨hregs, hbytes, hpsw, hlaunch, hrun, fun e => by cases w <;> cases e⟩
  · rw [exec_bit] at h
    obtain ⟨hregs, hbytes, ⟨hhigh, hc⟩, hlaunch, hrun⟩ :=
      (keeps_compareOnly (b := noBytes) sameHighC_refl sameHighC_trans (fun _ => List.mem_cons_of_mem _)
        fun _ _ => sameHighC_applyPattern rfl).frame h
    exact ⟨hregs, hbytes, hhigh, hlaunch, hrun, fun _ => hc⟩

end Sys2Proof.Machine
end

section
/-! The fields of an instruction word (30_encoding.md R112 to R121): their codes, what they are of a word joined from
them, and a word joined again from its own. -/

namespace Sys2Proof

/-! ### Codes -/

@[simp] theorem Reg.ofBits_bits (r : Reg) : Reg.ofBits r.bits = r := by cases r <;> rfl

@[simp] theorem Mode.ofBits_bits (m : Mode) : Mode.ofBits m.bits = m := by cases m <;> rfl

@[simp] theorem Reg.bits_ofBits : ∀ b : BitVec 3, (Reg.ofBits b).bits = b := by decide

@[simp] theorem Mode.bits_ofBits : ∀ b : BitVec 3, (Mode.ofBits b).bits = b := by decide

@[simp] theorem Specifier.ofBits_bits (o : Specifier) : Specifier.ofBits o.bits = o := by
  have hmode : o.bits.extractLsb' 3 3 = o.mode.bits := BitVec.extractLsb'_append_eq_left
  have hreg : o.bits.extractLsb' 0 3 = o.reg.bits := BitVec.extractLsb'_append_eq_right
  rw [Specifier.ofBits, hmode, hreg, Mode.ofBits_bits, Reg.ofBits_bits]

@[simp] theorem Specifier.bits_ofBits (b : BitVec 6) : (Specifier.ofBits b).bits = b := by
  rw [Specifier.ofBits, Specifier.bits, Mode.bits_ofBits, Reg.bits_ofBits]
  exact BitVec.extractLsb'_append_extractLsb'

/-! ### The fields of a joined word -/

@[simp] theorem extractOpcode_append (c : BitVec 10) (b : BitVec 6) : (c ++ b : Word).extractLsb' 6 10 = c :=
  BitVec.extractLsb'_append_eq_left

@[simp] theorem fieldNn_append (c : BitVec 10) (b : BitVec 6) : fieldNn (c ++ b) = b :=
  BitVec.extractLsb'_append_eq_right

@[simp] theorem fieldDst_append (c : BitVec 10) (o : Specifier) : fieldDst (c ++ o.bits) = o :=
  (congrArg Specifier.ofBits (fieldNn_append c o.bits)).trans o.ofBits_bits

@[simp] theorem extractOpcode_append_reg (c : BitVec 7) (a : BitVec 3) (b : BitVec 6) :
    (c ++ a ++ b : Word).extractLsb' 9 7 = c :=
  (BitVec.extractLsb'_append_eq_of_le (by decide)).trans BitVec.extractLsb'_append_eq_left

@[simp] theorem fieldReg_append (c : BitVec 7) (r : Reg) (b : BitVec 6) : fieldReg (c ++ r.bits ++ b) = r := by
  have hreg : (c ++ r.bits ++ b : Word).extractLsb' 6 3 = r.bits :=
    (BitVec.extractLsb'_append_eq_of_le (le_refl 6)).trans BitVec.extractLsb'_append_eq_right
  rw [fieldReg, hreg, Reg.ofBits_bits]

@[simp] theorem extractOpcode_append_src (c : BitVec 4) (a b : BitVec 6) :
    (c ++ a ++ b : Word).extractLsb' 12 4 = c :=
  (BitVec.extractLsb'_append_eq_of_le (by decide)).trans BitVec.extractLsb'_append_eq_left

@[simp] theorem fieldSrc_append (c : BitVec 4) (o : Specifier) (b : BitVec 6) : fieldSrc (c ++ o.bits ++ b) = o := by
  have hsrc : (c ++ o.bits ++ b : Word).extractLsb' 6 6 = o.bits :=
    (BitVec.extractLsb'_append_eq_of_le (le_refl 6)).trans BitVec.extractLsb'_append_eq_right
  rw [fieldSrc, hsrc, Specifier.ofBits_bits]

@[simp] theorem extractOffset_append (c off : BitVec 8) : (c ++ off : Word).extractLsb' 0 8 = off :=
  BitVec.extractLsb'_append_eq_right

/-- The branch mask keeps the high byte (R131). -/
@[simp] theorem append_and_branchMask (c off : BitVec 8) : (c ++ off : Word) &&& 0o177400#16 = c ++ 0#8 := by
  have hmask : 0o177400#16 = BitVec.allOnes 8 ++ 0#8 := rfl
  rw [hmask, BitVec.and_append, BitVec.and_allOnes, BitVec.and_zero]

/-! ### A word joined from its fields, and fields as numbers -/

theorem toNat_extractLsb' (s m : Nat) (w : Word) : (w.extractLsb' s m).toNat = w.toNat / 2 ^ s % 2 ^ m := by
  rw [BitVec.extractLsb'_toNat, Nat.shiftRight_eq_div_pow]

theorem and_branchMask (w : Word) : w &&& 0o177400 = w.extractLsb' 8 8 ++ 0#8 := by
  have hw : w.extractLsb' 8 8 ++ w.extractLsb' 0 8 = w := BitVec.extractLsb'_append_extractLsb'
  have h := append_and_branchMask (w.extractLsb' 8 8) (w.extractLsb' 0 8)
  rwa [hw] at h

theorem toNat_and_branchMask (w : Word) : (w &&& 0o177400).toNat = 256 * (w.toNat / 256) := by
  have := w.isLt
  rw [and_branchMask, BitVec.toNat_append, toNat_extractLsb', Nat.shiftLeft_eq, BitVec.toNat_zero,
    Nat.or_zero]
  omega

theorem ofNat_append_low {n m k : Nat} {w : BitVec (n + m)} (h : (w.extractLsb' m n).toNat = k) :
    BitVec.ofNat n k ++ w.extractLsb' 0 m = w := by
  rw [← h, BitVec.ofNat_toNat, BitVec.setWidth_eq, BitVec.extractLsb'_append_extractLsb']

theorem ofNat_append_middle_low {n m l k : Nat} {w : BitVec (n + m + l)} (h : (w.extractLsb' (l + m) n).toNat = k) :
    BitVec.ofNat n k ++ w.extractLsb' l m ++ w.extractLsb' 0 l = w := by
  rw [← h, BitVec.ofNat_toNat, BitVec.setWidth_eq, BitVec.extractLsb'_append_extractLsb'_eq_extractLsb' rfl,
    BitVec.extractLsb'_append_extractLsb']

theorem opcode_append_offset {w : Word} {k : Nat} (h : (w &&& 0o177400).toNat = 256 * k) :
    BitVec.ofNat 8 k ++ w.extractLsb' 0 8 = w := by
  have := w.isLt
  refine ofNat_append_low ?_
  rw [toNat_and_branchMask] at h
  rw [toNat_extractLsb']
  omega

theorem opcode_append_nn {w : Word} {k : Nat} (h : (w.extractLsb' 6 10).toNat = k) :
    BitVec.ofNat 10 k ++ fieldNn w = w := ofNat_append_low h

theorem opcode_append_reg_nn {w : Word} {k : Nat} (h : (w.extractLsb' 9 7).toNat = k) :
    BitVec.ofNat 7 k ++ (fieldReg w).bits ++ fieldNn w = w := by
  rw [fieldReg, Reg.bits_ofBits]
  exact ofNat_append_middle_low h

theorem bits_fieldDst (w : Word) : (fieldDst w).bits = fieldNn w := Specifier.bits_ofBits _

theorem opcode_append_dst {w : Word} {k : Nat} (h : (w.extractLsb' 6 10).toNat = k) :
    BitVec.ofNat 10 k ++ (fieldDst w).bits = w := by
  rw [bits_fieldDst, opcode_append_nn h]

theorem opcode_append_reg_dst {w : Word} {k : Nat} (h : (w.extractLsb' 9 7).toNat = k) :
    BitVec.ofNat 7 k ++ (fieldReg w).bits ++ (fieldDst w).bits = w := by
  rw [bits_fieldDst, opcode_append_reg_nn h]

theorem opcode_append_src_dst {w : Word} {k : Nat} (h : (w.extractLsb' 12 4).toNat = k) :
    BitVec.ofNat 4 k ++ (fieldSrc w).bits ++ (fieldDst w).bits = w := by
  rw [bits_fieldDst, fieldSrc, Specifier.bits_ofBits]
  exact ofNat_append_middle_low h

end Sys2Proof
end

section
/-! Which words a family claims (30_encoding.md R130, R138, R139): those of its rows of the partition, and the word of
NOP, which lies in a row of another family. -/

namespace Sys2Proof

open Claims

/-! ### The words each decoder answers (R139)

In a decoder's last arm the selector is none of the opcodes; the ranges leave it no other value. -/

theorem isSome_decodeBranch (w : Word) : (decodeBranch w).isSome = true ↔
    0o000400 ≤ w.toNat ∧ w.toNat ≤ 0o003777 ∨ 0o100000 ≤ w.toNat ∧ w.toNat ≤ 0o103777 := by
  unfold decodeBranch
  rw [toNat_and_branchMask]
  split
  case h_16 => simp only [imp_false, Option.isSome_none, Bool.false_eq_true, false_iff] at *; omega
  all_goals simp only [Option.isSome_some, true_iff]; omega

theorem isSome_decodeConditionCode (w : Word) : (decodeConditionCode w).isSome = true ↔
    0o000240 ≤ w.toNat ∧ w.toNat ≤ 0o000277 := by
  rw [decodeConditionCode, Option.isSome_ite]

theorem isSome_decodeNoOperand (w : Word) : (decodeNoOperand w).isSome = true ↔
    w.toNat ≤ 0o000006 ∨ w = 0o000240 := by
  have hnop : (0o000240 : Word).toNat = 0o000240 := rfl
  rw [← BitVec.toNat_inj, hnop]
  unfold decodeNoOperand
  split
  case h_9 => simp only [imp_false, Option.isSome_none, Bool.false_eq_true, false_iff] at *; omega
  all_goals simp only [Option.isSome_some, true_iff]; omega

theorem isSome_decodeSingleOperand (w : Word) : (decodeSingleOperand w).isSome = true ↔
    0o000100 ≤ w.toNat ∧ w.toNat ≤ 0o000177 ∨ 0o000300 ≤ w.toNat ∧ w.toNat ≤ 0o000377 ∨
    0o005000 ≤ w.toNat ∧ w.toNat ≤ 0o006377 ∨ 0o006500 ≤ w.toNat ∧ w.toNat ≤ 0o006777 ∨
    0o105000 ≤ w.toNat ∧ w.toNat ≤ 0o106377 ∨ 0o106500 ≤ w.toNat ∧ w.toNat ≤ 0o106677 := by
  unfold decodeSingleOperand
  rw [toNat_extractLsb']
  split
  case h_32 => simp only [imp_false, Option.isSome_none, Bool.false_eq_true, false_iff] at *; omega
  all_goals simp only [Option.isSome_some, true_iff]; omega

theorem isSome_decodeRss (w : Word) : (decodeRss w).isSome = true ↔
    0o070000 ≤ w.toNat ∧ w.toNat ≤ 0o074777 ∨ 0o077000 ≤ w.toNat ∧ w.toNat ≤ 0o077777 := by
  unfold decodeRss
  rw [toNat_extractLsb']
  split
  case h_7 => simp only [imp_false, Option.isSome_none, Bool.false_eq_true, false_iff] at *; omega
  all_goals simp only [Option.isSome_some, true_iff]; omega

theorem isSome_decodeSsdd (w : Word) : (decodeSsdd w).isSome = true ↔
    0o010000 ≤ w.toNat ∧ w.toNat ≤ 0o067777 ∨ 0o110000 ≤ w.toNat ∧ w.toNat ≤ 0o167777 := by
  unfold decodeSsdd
  rw [toNat_extractLsb']
  split
  case h_13 => simp only [imp_false, Option.isSome_none, Bool.false_eq_true, false_iff] at *; omega
  all_goals simp only [Option.isSome_some, true_iff]; omega

theorem isSome_decodeOther (w : Word) : (decodeOther w).isSome = true ↔
    0o000200 ≤ w.toNat ∧ w.toNat ≤ 0o000207 ∨ 0o004000 ≤ w.toNat ∧ w.toNat ≤ 0o004777 ∨
    0o006400 ≤ w.toNat ∧ w.toNat ≤ 0o006477 := by
  have := w.isLt
  simp only [decodeOther, toNat_extractLsb']
  split_ifs <;> simp only [Option.isSome_some, Option.isSome_none, Bool.false_eq_true, true_iff, false_iff] <;> omega

/-! ### The rows -/

/-- The word lies in the row. -/
abbrev InRow (row : Nat × Nat × Option Family) (w : Word) : Prop := row.1 ≤ w.toNat ∧ w.toNat ≤ row.2.1

theorem exists_row (w : Word) : ∃ row ∈ partition, InRow row w := by
  have := w.isLt
  simp only [partition, InRow, List.exists_mem_cons_iff, List.not_mem_nil, false_and, exists_false]
  omega

theorem rows_apart : ∀ a ∈ partition, ∀ b ∈ partition, a = b ∨ a.2.1 < b.1 ∨ b.2.1 < a.1 := by decide

theorem row_unique {a b : Nat × Nat × Option Family} {w : Word} (ha : a ∈ partition) (hb : b ∈ partition)
    (hwa : InRow a w) (hwb : InRow b w) : a = b := by
  obtain h | h | h := rows_apart a ha b hb
  · exact h
  · omega
  · omega

theorem family_of_nopWord_row {row : Nat × Nat × Option Family} (hr : row ∈ partition) (hw : InRow row 0o000240) :
    row.2.2 = some .conditionCode := by
  rw [row_unique hr (b := (0o000240, 0o000277, some .conditionCode)) (by decide) hw (by decide)]

/-! ### The claims -/

/-- The word lies in a row of the family, or is NOP's (R138). -/
def Family.Claims (f : Family) (w : Word) : Prop :=
  (∃ row ∈ partition, row.2.2 = some f ∧ InRow row w) ∨ f = .noOperand ∧ w = 0o000240

/-- The words a family claims are those its decoder answers. -/
theorem Family.claims_iff (f : Family) (w : Word) : f.Claims w ↔ (f.decode w).isSome = true := by
  cases f <;>
    simp only [Family.Claims, partition, InRow, List.exists_mem_cons_iff, List.not_mem_nil, reduceCtorEq,
      Option.some.injEq, zero_le, false_and, true_and, false_or, or_false, exists_false, Family.decode,
      isSome_decodeBranch, isSome_decodeConditionCode, isSome_decodeNoOperand, isSome_decodeSingleOperand,
      isSome_decodeRss, isSome_decodeSsdd, isSome_decodeOther]

/-- A family that claims a word of a row is the row's, or No-Operand with the word of NOP. -/
theorem Family.Claims.row {f : Family} {w : Word} {row : Nat × Nat × Option Family} (hf : f.Claims w)
    (hr : row ∈ partition) (hw : InRow row w) : row.2.2 = some f ∨ f = .noOperand ∧ w = 0o000240 := by
  obtain ⟨a, ha, hfam, hwa⟩ | h := hf
  · exact .inl (row_unique hr ha hw hwa ▸ hfam)
  · exact .inr h

theorem Family.Claims.nopWord_of_ne {f g : Family} {w : Word} (hf : f.Claims w) (hg : g.Claims w) (hne : f ≠ g) :
    w = 0o000240 ∧ (f = .noOperand ∨ f = .conditionCode) ∧ (g = .noOperand ∨ g = .conditionCode) := by
  obtain ⟨row, hr, hw⟩ := exists_row w
  obtain hfr | ⟨rfl, rfl⟩ := hf.row hr hw <;> obtain hgr | ⟨rfl, hn⟩ := hg.row hr hw
  · exact absurd (Option.some.inj (hfr.symm.trans hgr)) hne
  · subst hn
    exact ⟨rfl, .inr (Option.some.inj (hfr.symm.trans (family_of_nopWord_row hr hw))), .inl rfl⟩
  · exact ⟨rfl, .inl rfl, .inr (Option.some.inj (hgr.symm.trans (family_of_nopWord_row hr hw)))⟩
  · exact absurd rfl hne

/-! ### The driver's choice -/

theorem classify_nopWord : classify 0o000240 = some .conditionCode := by decide

theorem decodeWord_nopWord : decodeWord 0o000240 = .ok (.cx 0) := by decide

theorem Family.mem_precedence (f : Family) : f ∈ Family.precedence := by cases f <;> decide

theorem classify_eq_none_iff (w : Word) : classify w = none ↔ ∀ f : Family, ¬ f.Claims w := by
  simp only [classify, List.find?_eq_none, Family.claims_iff, Family.mem_precedence, true_implies]

theorem claims_of_classify {f : Family} {w : Word} (h : classify w = some f) : f.Claims w :=
  (f.claims_iff w).mpr (List.find?_some (p := fun f : Family => (f.decode w).isSome) h)

theorem classify_of_claims {f : Family} {w : Word} (hf : f.Claims w) (hn : f = .noOperand → w ≠ 0o000240) :
    classify w = some f := by
  cases hc : classify w with
  | none => exact absurd hf ((classify_eq_none_iff w).mp hc f)
  | some g =>
    by_contra hne
    obtain ⟨rfl, hfam, -⟩ := hf.nopWord_of_ne (claims_of_classify hc) fun e => hne (congrArg some e.symm)
    obtain rfl | rfl := hfam
    · exact hn rfl rfl
    · exact hne (hc.symm.trans classify_nopWord)

end Sys2Proof
end

section
/-! The encoder against the decoder (30_encoding.md R114, R130, R138, R145), and the obligations of the encoding. -/

namespace Sys2Proof

open Machine Claims

/-! ### Encoding what a family decodes -/

theorem encodeWord_of_decodeBranch {w : Word} {i : Instr} (h : decodeBranch w = some i) :
    encodeWord i = w ∧ i.isAlias = false := by
  unfold decodeBranch at h
  split at h <;> cases h <;> exact ⟨opcode_append_offset ‹_›, rfl⟩

theorem encodeWord_of_decodeConditionCode {w : Word} {i : Instr} (h : decodeConditionCode w = some i) :
    encodeWord i = w ∧ i.isAlias = false := by
  have hbit : w.getLsbD 4 = decide (w.toNat / 2 ^ 4 % 2 = 1) := Nat.testBit_eq_decide_div_mod_eq
  unfold decodeConditionCode at h
  rw [hbit] at h
  split_ifs at h with hrange hset <;> cases h <;> rw [decide_eq_true_iff] at hset
  · exact ⟨ofNat_append_low (by rw [toNat_extractLsb']; omega), rfl⟩
  · exact ⟨ofNat_append_low (by rw [toNat_extractLsb']; omega), rfl⟩

theorem encodeWord_of_decodeNoOperand {w : Word} {i : Instr} (h : decodeNoOperand w = some i) :
    encodeWord i = w ∧ (i = .nop ∨ i.isAlias = false) := by
  unfold decodeNoOperand at h
  split at h <;> cases h <;> exact ⟨BitVec.eq_of_toNat_eq (Eq.symm ‹_›), by decide⟩

theorem encodeWord_of_decodeSingleOperand {w : Word} {i : Instr} (h : decodeSingleOperand w = some i) :
    encodeWord i = w ∧ i.isAlias = false := by
  unfold decodeSingleOperand at h
  split at h <;> cases h <;> exact ⟨opcode_append_dst ‹_›, rfl⟩

theorem encodeWord_of_decodeRss {w : Word} {i : Instr} (h : decodeRss w = some i) :
    encodeWord i = w ∧ i.isAlias = false := by
  unfold decodeRss at h
  split at h <;> cases h
  case h_6 => exact ⟨opcode_append_reg_nn ‹_›, rfl⟩
  all_goals exact ⟨opcode_append_reg_dst ‹_›, rfl⟩

theorem encodeWord_of_decodeSsdd {w : Word} {i : Instr} (h : decodeSsdd w = some i) :
    encodeWord i = w ∧ i.isAlias = false := by
  unfold decodeSsdd at h
  split at h <;> cases h <;> exact ⟨opcode_append_src_dst ‹_›, rfl⟩

theorem encodeWord_of_decodeOther {w : Word} {i : Instr} (h : decodeOther w = some i) :
    encodeWord i = w ∧ i.isAlias = false := by
  unfold decodeOther at h
  split_ifs at h <;> cases h
  · exact ⟨opcode_append_reg_dst ‹_›, rfl⟩
  · refine ⟨?_, rfl⟩
    rw [encodeWord, Reg.bits_ofBits]
    exact ofNat_append_low ‹_›
  · exact ⟨opcode_append_nn ‹_›, rfl⟩

theorem Family.encodeWord_of_decode {f : Family} {w : Word} {i : Instr} (h : f.decode w = some i) :
    encodeWord i = w ∧ (i = .nop ∨ i.isAlias = false) := by
  cases f with
  | branch => exact (encodeWord_of_decodeBranch h).imp_right .inr
  | conditionCode => exact (encodeWord_of_decodeConditionCode h).imp_right .inr
  | noOperand => exact encodeWord_of_decodeNoOperand h
  | singleOperand => exact (encodeWord_of_decodeSingleOperand h).imp_right .inr
  | rss => exact (encodeWord_of_decodeRss h).imp_right .inr
  | ssdd => exact (encodeWord_of_decodeSsdd h).imp_right .inr
  | other => exact (encodeWord_of_decodeOther h).imp_right .inr

theorem decode_of_decodeWord {w : Word} {i : Instr} (h : decodeWord w = .ok i) :
    ∃ f : Family, f.decode w = some i := by
  unfold decodeWord at h
  split at h
  case h_1 f _ =>
    split at h <;> cases h
    exact ⟨f, ‹_›⟩
  case h_2 => cases h

/-- Settles O2: each family's decoder drops no bit of the word, and answers no second spelling but NOP, whose word
the driver gives to Condition-Code. -/
theorem encodingADecodedWordGivesTheWord : Obligations.EncodingADecodedWordGivesTheWord := by
  intro w i h
  obtain ⟨f, hf⟩ := decode_of_decodeWord h
  obtain ⟨hw, rfl | ha⟩ := f.encodeWord_of_decode hf
  · subst hw
    exact absurd (decodeWord_nopWord.symm.trans h) (by decide)
  · exact ⟨hw, ha⟩

/-! ### Decoding what is encoded -/

theorem decodeConditionCode_clear : ∀ m : BitVec 4, decodeConditionCode (0o12#12 ++ m) = some (.cx m) := by decide

theorem decodeConditionCode_set : ∀ m : BitVec 4, decodeConditionCode (0o13#12 ++ m) = some (.sx m) := by decide

theorem decodeOther_mark : ∀ nn : BitVec 6, decodeOther (0o64#10 ++ nn) = some (.mark nn) := by decide

theorem decode_encodeWord {i : Instr} (h : i.isAlias = false) : ∃ f : Family, f.decode (encodeWord i) = some i := by
  cases i with
  | br | bne | beq | bge | blt | bgt | ble | bpl | bmi | bhi | blos | bvc | bvs | bcc | bcs =>
    exact ⟨.branch, by simp [Family.decode, decodeBranch, encodeWord]⟩
  | cx m => exact ⟨.conditionCode, decodeConditionCode_clear m⟩
  | sx m => exact ⟨.conditionCode, decodeConditionCode_set m⟩
  | bhis | blo | clc | clv | clz | cln | ccc | sec | sev | sez | sen | scc | nop => cases h
  | halt | wait | rti | bpt | iot | reset | rtt => exact ⟨.noOperand, rfl⟩
  | mul | div | ash | ashc | xor | sob => exact ⟨.rss, by simp [Family.decode, decodeRss, encodeWord]⟩
  | mov | cmp | bit | bic | bis | add | movb | cmpb | bitb | bicb | bisb | sub =>
    exact ⟨.ssdd, by simp [Family.decode, decodeSsdd, encodeWord]⟩
  | jsr r dst => exact ⟨.other, by simp [Family.decode, decodeOther, encodeWord]⟩
  | rts r => exact ⟨.other, by cases r <;> rfl⟩
  | mark nn => exact ⟨.other, decodeOther_mark nn⟩
  | _ => exact ⟨.singleOperand, by simp [Family.decode, decodeSingleOperand, encodeWord]⟩

/-- The driver answers what a family decodes, but for NOP. -/
theorem decodeWord_of_decode {f : Family} {w : Word} {i : Instr} (h : f.decode w = some i) (hi : i ≠ .nop) :
    decodeWord w = .ok i := by
  have hc : classify w = some f := by
    refine classify_of_claims ((f.claims_iff w).mpr (by rw [h]; rfl)) ?_
    rintro rfl rfl
    exact hi (Option.some.inj h).symm
  simp only [decodeWord, hc, h]

theorem decodeWord_encodeWord {i : Instr} (h : i.isAlias = false) : decodeWord (encodeWord i) = .ok i := by
  obtain ⟨f, hf⟩ := decode_encodeWord h
  exact decodeWord_of_decode hf (by rintro rfl; cases h)

theorem core_of_not_alias {i : Instr} (h : i.isAlias = false) : i.core = i := by
  cases i with
  | bhis | blo | clc | clv | clz | cln | ccc | sec | sev | sez | sen | scc | nop => cases h
  | _ => rfl

theorem core_spelling (i : Instr) : Laws.CoreSpelling.Statement i := by cases i <;> exact ⟨rfl, rfl, rfl⟩

/-- Settles O1: the spelling a constructor stands for has the constructor's word, and what its family decodes from that
word is what the driver answers. -/
theorem decodingAnEncodedInstructionGivesIt : Obligations.DecodingAnEncodedInstructionGivesIt := by
  intro i rest
  obtain ⟨-, halias, hword⟩ := core_spelling i
  have hdecode : decodeWord (encodeWord i) = .ok i.core := hword ▸ decodeWord_encodeWord halias
  refine ⟨?_, core_of_not_alias, fun _ => halias⟩
  simp only [decodeBytes, wordOfBytes_lowByte_highByte, hdecode]

/-! ### The words claimed twice, and the partition -/

theorem clearCodes_zero (p : Word) : clearCodes 0 p = p := by
  have hmask : ~~~(0 : BitVec 4) = BitVec.allOnes 4 := rfl
  rw [clearCodes, hmask, BitVec.and_allOnes]
  exact BitVec.extractLsb'_append_extractLsb'

theorem exec_cx_zero (s : State) : exec (.cx 0) s = exec .nop s :=
  congrArg (fun p : Word => (.next { s with psw := p } : Host.Outcome State Fault Refusal)) (clearCodes_zero s.psw)

/-- Settles O3: a word of two families' claims is the one that lies in no row of one of them. -/
theorem onlyTheNopWordIsClaimedTwice : Obligations.OnlyTheNopWordIsClaimedTwice :=
  ⟨fun w f g hne hf hg => ((f.claims_iff w).mpr hf).nopWord_of_ne ((g.claims_iff w).mpr hg) hne,
    classify_nopWord, decodeWord_nopWord, rfl, exec_cx_zero⟩

/-- Settles O4: a family claims the words of its rows, and no other family claims them but No-Operand the word of NOP,
which comes after Condition-Code. -/
theorem wordsFallIntoThePartitionRows : Obligations.WordsFallIntoThePartitionRows := by
  intro w
  obtain ⟨row, hr, hw⟩ := exists_row w
  refine ⟨row, hr, hw.1, hw.2, ?_⟩
  cases hfam : row.2.2 with
  | none =>
    refine (classify_eq_none_iff w).mpr fun f hf => ?_
    obtain h | ⟨-, rfl⟩ := hf.row hr hw
    · cases hfam.symm.trans h
    · cases hfam.symm.trans (family_of_nopWord_row hr hw)
  | some f =>
    refine classify_of_claims (.inl ⟨row, hr, hfam, hw⟩) ?_
    rintro rfl rfl
    cases hfam.symm.trans (family_of_nopWord_row hr hw)

end Sys2Proof
end

section
/-! Register operands by width (40_addressing_modes.md R170 to R174), in numbers. -/

namespace Sys2Proof.Machine

theorem truncTo_byte_eq_ofNat (v : Word) : truncTo .byte v = BitVec.ofNat 16 (v.toNat % 256) := by
  have hv : (truncTo .byte v).toNat = v.toNat % 256 := Nat.and_two_pow_sub_one_eq_mod v.toNat 8
  refine BitVec.eq_of_toNat_eq ?_
  rw [hv, BitVec.toNat_ofNat]
  omega

theorem highByte_append_lowByte (x v : Word) :
    (highByte x ++ lowByte v : Word) = BitVec.ofNat 16 (x.toNat / 256 * 256 + v.toNat % 256) := by
  have h := wordOfBytes_eq_ofNat (lowByte v) (highByte x)
  have hx := x.isLt
  rw [wordOfBytes, lowByte_eq_ofNat, highByte_eq_ofNat] at h
  rw [lowByte_eq_ofNat, highByte_eq_ofNat, h]
  simp only [BitVec.toNat_ofNat]
  congr 1
  omega

/-- Settles O18: a register's access always goes through; its values by width are the numbers above. -/
theorem registerOperandsByWidth : Obligations.RegisterOperandsByWidth := by
  intro s r v
  have hread (w : Width) : readOp (.reg r) w s = .ok (truncTo w (s.reg r)) s := readOp_ok rfl
  refine ⟨?_, ?_, rfl, ?_, rfl⟩
  · rw [hread, truncTo_word]
  · rw [hread, truncTo_byte_eq_ofNat]
  · rw [writeOp_ok (w := .byte) v rfl, afterWriteOp, highByte_append_lowByte]

end Sys2Proof.Machine
end

section
/-! Resolution mode by mode (40_addressing_modes.md R161 to R164). -/

namespace Sys2Proof.Machine

theorem stepOf_eq (r : Reg) (w : Width) : stepOf r w = if w = .byte ∧ r ≠ .r6 ∧ r ≠ .r7 then 1 else 2 := by
  cases r <;> cases w <;> rfl

/-- A word steps every register by 2 (R162). -/
@[simp] theorem stepOf_word (r : Reg) : stepOf r .word = 2 := by cases r <;> rfl

/-- The base register of an index mode is read with the PC past the extension word (R164). -/
@[simp] theorem reg_afterFetch (s : State) (r : Reg) :
    (afterFetch s).reg r = if r = .r7 then s.reg .r7 + 2 else s.reg r := by
  simp [afterFetch]

/-- Settles O14: `resolveEA_ok` in each mode, with `Step` as R162 gives it. -/
theorem registerModesResolve : Obligations.RegisterModesResolve := by
  intro s r w hb step
  have hstep : stepOf r w = step := stepOf_eq r w
  refine ⟨rfl, ?_, ?_, fun ha => ?_, fun ha => ?_⟩
  · rw [resolveEA_ok w (by simp [resolvable, hb]), effAddr, afterResolve, hstep]
  · rw [resolveEA_ok w (by simp [resolvable, hb]), effAddr, afterResolve, hstep]
  · exact resolveEA_ok w (by simp [resolvable, hb, ha])
  · have ha' : isOddAddr (s.reg r - 2) = false := by rwa [isOddAddr_sub_two]
    exact resolveEA_ok w (by simpa [resolvable, hb] using ha')

/-- Settles O15: `resolveEA_ok` in both modes, the base register read after the fetch. -/
theorem indexModesResolve : Obligations.IndexModesResolve := by
  intro s r w hf x u base
  obtain ⟨hb, -⟩ := Bool.and_eq_true_iff.mp hf
  have hbase : (afterFetch s).reg r = base := reg_afterFetch s r
  refine ⟨?_, fun ha => ?_⟩
  · rw [resolveEA_ok w (by simp [resolvable, hb, hf]), effAddr, hbase]
    rfl
  · have hx : fetchValue s = x := rfl
    have hres : resolvable s ⟨.indexDeferred, r⟩ = true := by
      simp only [resolvable, hb, hf, hbase, hx, ha, Bool.not_false, Bool.and_self]
    rw [← hbase]
    exact resolveEA_ok w hres

end Sys2Proof.Machine
end

section
/-! Where resolution and operand accesses raise, and that an instruction stops there (40_addressing_modes.md R179,
00_scope.md R16). An instruction stops where its leading pieces raise; `Leads` carries that through its sequence. -/

namespace Sys2Proof.Machine

open Sys2Proof.Claims

/-! ### Leading pieces -/

/-- Wherever the piece `m` raises, the piece `n` raises the same, in the same state. -/
def Leads {α β : Type} (m : Exec α) (n : Exec β) : Prop := ∀ s t e, m s = .error e t → n s = .error e t

section leads

variable {α β γ : Type} {m : Exec α} {n : Exec β} {i : Instr}

/-- A sequence raises where its first piece does. -/
theorem Leads.bind (h : Leads m n) (k : β → Exec γ) : Leads m (n >>= k) := fun s t e hm => by
  rw [bind_apply, h s t e hm]

theorem leads_bind (m : Exec α) (k : α → Exec β) : Leads m (m >>= k) := Leads.bind (fun _ _ _ h => h) k

/-- After a common first piece, what leads the rest leads the whole. -/
theorem Leads.after (m : Exec α) {k : α → Exec β} {l : α → Exec γ} (h : ∀ a, Leads (k a) (l a)) :
    Leads (m >>= k) (m >>= l) := fun s t e hm => by
  obtain hm | ⟨a, u, hu, hk⟩ := bind_error hm
  · rw [bind_apply, hm]
  · rw [bind_apply, hu]
    exact h a u t e hk

/-- Dropping a piece's answer adds no raise. -/
theorem Leads.discard (h : Leads m n) : Leads (do let _ ← m) n := fun s t e hm => by
  obtain hm | ⟨_, _, -, hp⟩ := bind_error hm
  · exact h s t e hm
  · cases hp

theorem Leads.stopsWhere (h : Leads m n) (hn : StopsWhere n i) : StopsWhere m i := fun s t f hm =>
  hn s t f (h s t _ hm)

theorem stopsWhere_of_bind {k : α → Exec β} (h : StopsWhere (m >>= k) i) : StopsWhere m i :=
  (leads_bind m k).stopsWhere h

theorem stopsWhere_of_exec {n : Exec Unit} (h : ∀ s, exec i s = finish n s) : StopsWhere n i := fun s t f hn => by
  rw [h, finish_fault hn]

end leads

/-! ### Operand accesses -/

theorem memRead_error {s t : State} {w : Width} {a : Word} {e : Abort} (h : memRead w a s = .error e t) : t = s := by
  obtain hm | hm | hm := memRead_cases s w a <;> rw [hm] at h <;> cases h <;> rfl

theorem memWrite_error {s t : State} {w : Width} {a v : Word} {e : Abort} (h : memWrite w a v s = .error e t) :
    t = s := by
  obtain hm | hm | hm := memWrite_cases s w a v <;> rw [hm] at h <;> cases h <;> rfl

/-- Whether a bus write raises does not depend on the value. -/
theorem leads_memWrite (w : Width) (a v x : Word) : Leads (memWrite w a v) (memWrite w a x) := fun s t e h => by
  rw [memWrite_apply] at h ⊢
  split_ifs at h ⊢
  · exact h
  · exact h

theorem readOp_error {s t : State} {op : Operand} {w : Width} {e : Abort} (h : readOp op w s = .error e t) : t = s := by
  cases op with
  | reg r => cases h
  | mem ea => exact memRead_error h

theorem writeOp_error {s t : State} {op : Operand} {w : Width} {v : Word} {e : Abort}
    (h : writeOp op w v s = .error e t) : t = s := by
  cases op with
  | reg r => cases w <;> cases h
  | mem ea => exact memWrite_error h

theorem writeOpSext_error {s t : State} {op : Operand} {v : Word} {e : Abort}
    (h : writeOpSext op v s = .error e t) : t = s := by
  cases op with
  | reg r => cases h
  | mem ea => exact memWrite_error h

theorem leads_writeOp (op : Operand) (w : Width) (v x : Word) : Leads (writeOp op w v) (writeOp op w x) :=
  fun s t e h => by
    cases op with
    | reg r => cases w <;> cases h
    | mem ea => exact leads_memWrite w ea v x s t e h

/-! ### Resolution -/

theorem leads_resolve (o : Specifier) (w : Width) : Leads (resolveEA o w) (resolve o w) := fun _ _ _ => resolve_error

theorem leads_resolveJump (o : Specifier) : Leads (resolveEA o .word) (resolveJump o) := fun _ _ _ => resolveJump_error

theorem leads_readsOperand (o : Specifier) (w : Width) : Leads (resolveEA o w) (readsOperand o w) :=
  (leads_resolve o w).bind _

theorem resolveEA_autoIncDeferred_odd {s : State} {r : Reg} (w : Width) (h : isOddAddr (s.reg r) = true) :
    resolveEA ⟨.autoIncDeferred, r⟩ w s =
      .error (.fault (.busFault .oddAddress (s.reg r))) (s.setReg r (s.reg r + 2)) := by
  simp only [resolveEA, bind_apply, readReg_apply, writeReg_apply, memRead_odd h]

theorem resolveEA_autoDecDeferred_odd {s : State} {r : Reg} (w : Width) (h : isOddAddr (s.reg r) = true) :
    resolveEA ⟨.autoDecDeferred, r⟩ w s =
      .error (.fault (.busFault .oddAddress (s.reg r - 2))) (s.setReg r (s.reg r - 2)) := by
  have h' : isOddAddr (s.reg r - 2) = true := by rwa [isOddAddr_sub_two]
  simp only [resolveEA, bind_apply, readReg_apply, writeReg_apply, memRead_odd h']

theorem resolveEA_indexDeferred_odd {s : State} {r : Reg} (w : Width) (hf : fetchReady s = true)
    (h : isOddAddr ((afterFetch s).reg r + fetchValue s) = true) :
    resolveEA ⟨.indexDeferred, r⟩ w s =
      .error (.fault (.busFault .oddAddress ((afterFetch s).reg r + fetchValue s))) (afterFetch s) := by
  simp only [resolveEA, bind_apply, fetchWord_ok hf, readReg_apply, memRead_odd h]

theorem resolutionRaisesAfterItsSteps : ResolutionRaisesAfterItsSteps := by
  refine fun s r w => ⟨fun h => ⟨resolveEA_autoIncDeferred_odd w h, resolveEA_autoDecDeferred_odd w h⟩,
    fun h m hm => ?_, fun hf => ?_⟩
  · have hfetch := fetchWord_odd h
    simp only [List.mem_cons, List.not_mem_nil, or_false] at hm
    obtain rfl | rfl := hm <;> simp only [resolveEA, bind_apply, hfetch]
  · have hr := resolveEA_indexDeferred_odd (r := r) w hf
    rwa [reg_afterFetch] at hr

/-! ### One operand -/

/-- The instruction reads its operand before anything else. -/
def ReadsFirst (i : Instr) (o : Specifier) (w : Width) : Prop :=
  ∃ k : Operand → Word → Exec Unit, ∀ s, exec i s = finish (do let op ← resolve o w; k op (← readOp op w)) s

/-- The instruction writes its operand, a value that the PSW gives, before it changes anything else. -/
def WritesFirst (i : Instr) (o : Specifier) (w : Width) : Prop :=
  ∃ (f : Word → Word) (flags : Word → Pattern), ∀ s, exec i s = finish (writeOnly w o f flags) s

theorem ReadsFirst.stopsWhere {i : Instr} {o : Specifier} {w : Width} (h : ReadsFirst i o w) :
    StopsWhere (readsOperand o w) i := by
  obtain ⟨k, hk⟩ := h
  exact (Leads.after _ fun op => leads_bind (readOp op w) (k op)).stopsWhere (stopsWhere_of_exec hk)

theorem leads_writeOnly (w : Width) (o : Specifier) (f : Word → Word) (flags : Word → Pattern) (v : Word) :
    Leads (writesOperand o w v) (writeOnly w o f flags) :=
  Leads.after _ fun op s t e h => (leads_writeOp op w v (f s.psw)).bind (fun _ => setFlags (flags s.psw)) s t e h

theorem WritesFirst.stopsWhere {i : Instr} {o : Specifier} {w : Width} (h : WritesFirst i o w) (v : Word) :
    StopsWhere (writesOperand o w v) i := by
  obtain ⟨f, flags, hk⟩ := h
  exact (leads_writeOnly w o f flags v).stopsWhere (stopsWhere_of_exec hk)

/-- The single-operand instructions: CLR, CLRB and SXT write first, the others read first. -/
theorem readsFirst_or_writesFirst (o : Specifier) :
    ∀ p ∈ singleStores ++ [(.tst, .word), (.tstb, .byte)],
      ReadsFirst (p.1 o) o p.2 ∧ p.1 o ∉ [Instr.clr o, .clrb o, .sxt o] ∨
      WritesFirst (p.1 o) o p.2 ∧ p.1 o ∈ [Instr.clr o, .clrb o, .sxt o] := by
  simp only [singleStores, List.cons_append, List.nil_append, List.forall_mem_cons, List.not_mem_nil, false_imp_iff,
    implies_true, and_true]
  refine ⟨?swab, ?sxt, ?clr, ?clrb, ?others⟩
  case sxt | clr | clrb => exact .inr ⟨⟨_, _, fun _ => rfl⟩, by simp⟩
  case swab => exact .inl ⟨⟨_, fun _ => rfl⟩, by simp⟩
  case others =>
    and_intros
    all_goals exact .inl ⟨⟨_, fun _ => rfl⟩, by simp⟩

theorem singleOperand_stopsWhere {f : Specifier → Instr} {w : Width} (o : Specifier)
    (hf : (f, w) ∈ singleStores ++ [(.tst, .word), (.tstb, .byte)]) :
    StopsWhere (resolveEA o w) (f o) ∧
    (f o ∉ [Instr.clr o, .clrb o, .sxt o] → StopsWhere (readsOperand o w) (f o)) ∧
    (f o ∈ [Instr.clr o, .clrb o, .sxt o] → ∀ v, StopsWhere (writesOperand o w v) (f o)) := by
  obtain ⟨h, hne⟩ | ⟨h, he⟩ := readsFirst_or_writesFirst o _ hf
  · exact ⟨(leads_readsOperand o w).stopsWhere h.stopsWhere, fun _ => h.stopsWhere, fun he => absurd he hne⟩
  · exact ⟨((leads_resolve o w).bind _).stopsWhere (h.stopsWhere 0), fun hne => absurd he hne, fun _ => h.stopsWhere⟩

/-- DIV looks at its source once its register is even (44_rss.md R311). -/
theorem divide_of_even (ir : Word) {r : Reg} (src : Specifier) (h : r.isOdd = false) :
    ∃ k : Word → Exec Unit, divide ir r src = readsOperand src .word >>= k :=
  ⟨_, if_neg (by simp [h])⟩

theorem rss_stopsWhere {r : Reg} {o : Specifier} {i : Instr}
    (h : i ∈ [.mul r o, .ash r o, .ashc r o] ∨ (r.isOdd = false ∧ i = .div r o)) :
    StopsWhere (readsOperand o .word) i := by
  simp only [List.mem_cons, List.not_mem_nil, or_false] at h
  obtain (rfl | rfl | rfl) | ⟨hr, rfl⟩ := h
  · exact (leads_bind _ _).stopsWhere (stopsWhere_of_exec fun _ => rfl)
  · exact (leads_bind _ _).stopsWhere (stopsWhere_of_exec fun _ => rfl)
  · exact (leads_bind _ _).stopsWhere (stopsWhere_of_exec fun _ => rfl)
  · obtain ⟨k, hk⟩ := divide_of_even (encodeWord (.div r o)) o hr
    exact (leads_bind _ k).stopsWhere (stopsWhere_of_exec fun s => congrArg (finish · s) hk)

theorem jmp_stopsWhere (o : Specifier) : StopsWhere (resolveEA o .word) (.jmp o) :=
  ((leads_resolveJump o).bind _).stopsWhere (stopsWhere_of_exec fun _ => rfl)

theorem jsr_stopsWhere (r : Reg) (o : Specifier) : StopsWhere (resolveEA o .word) (.jsr r o) :=
  ((leads_resolveJump o).bind _).stopsWhere (stopsWhere_of_exec fun _ => rfl)

/-- XOR reads its register, then its operand (44_rss.md R326). -/
theorem xor_stopsWhere (r : Reg) (o : Specifier) :
    StopsWhere (do let _ ← readReg r; readsOperand o .word) (.xor r o) :=
  (Leads.after _ fun _ => Leads.after _ fun op => leads_bind (readOp op .word) _).stopsWhere
    (stopsWhere_of_exec fun _ => rfl)

theorem stopsWhereItsOperandRaises : StopsWhereItsOperandRaises := by
  refine ⟨fun f w o => singleOperand_stopsWhere o, fun r o i h => ?_, fun r o =>
    ⟨jmp_stopsWhere o, jsr_stopsWhere r o, ?_, xor_stopsWhere r o⟩⟩
  · exact ⟨(leads_readsOperand o .word).stopsWhere (rss_stopsWhere h), rss_stopsWhere h⟩
  · exact (Leads.after _ fun _ => (leads_readsOperand o .word).discard).stopsWhere (xor_stopsWhere r o)

/-! ### Two operands -/

/-- The instruction reads its source, then its destination, before it changes anything else (45_ssdd.md R340). -/
def ReadsBothFirst (i : Instr) (src dst : Specifier) (w : Width) : Prop :=
  ∃ k : Word → Operand → Word → Exec Unit, ∀ s, exec i s = finish (do
    let sop ← resolve src w
    let a ← readOp sop w
    let dop ← resolve dst w
    k a dop (← readOp dop w)) s

theorem ReadsBothFirst.stopsWhere {i : Instr} {src dst : Specifier} {w : Width} (h : ReadsBothFirst i src dst w) :
    StopsWhere (do let _ ← readsOperand src w; readsOperand dst w) i := by
  obtain ⟨k, hk⟩ := h
  refine Leads.stopsWhere ?_ (stopsWhere_of_exec hk)
  simp only [readsOperand, bind_assoc]
  exact Leads.after _ fun _ => Leads.after _ fun a => Leads.after _ fun dop => leads_bind (readOp dop w) (k a dop)

theorem readsBothFirst (src dst : Specifier) : ∀ p ∈ doubleReads, ReadsBothFirst (p.1 src dst) src dst p.2 := by
  intro p hp
  fin_cases hp
  all_goals exact ⟨_, fun _ => rfl⟩

/-- MOV and MOVB read their source, then write their destination by `write` (R341). -/
theorem leads_moveTo (w : Width) (src dst : Specifier) (write : Operand → Word → Exec Unit) :
    Leads (do let v ← readsOperand src w; write (← resolve dst w) v) (moveTo w src dst write) := by
  simp only [readsOperand, bind_assoc, moveTo]
  exact Leads.after _ fun _ => Leads.after _ fun v => Leads.after _ fun dop => leads_bind (write dop v) _

theorem mov_stopsWhere (src dst : Specifier) :
    StopsWhere (do let v ← readsOperand src .word; writesOperand dst .word v) (.mov src dst) :=
  (leads_moveTo .word src dst fun op v => writeOp op .word v).stopsWhere (stopsWhere_of_exec fun _ => rfl)

theorem movb_stopsWhere (src dst : Specifier) :
    StopsWhere (do let v ← readsOperand src .byte; writeOpSext (← resolve dst .byte) v) (.movb src dst) :=
  (leads_moveTo .byte src dst writeOpSext).stopsWhere (stopsWhere_of_exec fun _ => rfl)

/-- What stops where the destination's access raises stops where any piece before that access does. -/
theorem stopsWhere_before_access {β : Type} {i : Instr} {src dst : Specifier} {w : Width}
    {access : Word → Operand → Exec β}
    (h : StopsWhere (do let a ← readsOperand src w; access a (← resolve dst w)) i) :
    StopsWhere (resolveEA src w) i ∧ StopsWhere (readsOperand src w) i ∧
    StopsWhere (do let _ ← readsOperand src w; let _ ← resolveEA dst w) i :=
  ⟨(leads_readsOperand src w).stopsWhere (stopsWhere_of_bind h), stopsWhere_of_bind h,
    (Leads.after _ fun a => ((leads_resolve dst w).bind (access a)).discard).stopsWhere h⟩

theorem stopsWhereEitherOperandRaises : StopsWhereEitherOperandRaises := by
  refine ⟨fun f w src dst hf => ?_, fun src dst => ?_⟩
  · have h := (readsBothFirst src dst _ hf).stopsWhere
    exact ⟨stopsWhere_before_access h, h⟩
  · have hmov := mov_stopsWhere src dst
    have hmovb := movb_stopsWhere src dst
    exact ⟨stopsWhere_before_access hmov, hmov, stopsWhere_before_access hmovb, hmovb⟩

/-! ### The obligation -/

theorem writesOperand_autoDec_odd {s : State} {r : Reg} (v : Word) (h : isOddAddr (s.reg r) = true) :
    writesOperand ⟨.autoDec, r⟩ .word v s =
      .error (.fault (.busFault .oddAddress (s.reg r - 2))) (s.setReg r (s.reg r - 2)) := by
  have h' : isOddAddr (s.reg r - 2) = true := by rwa [isOddAddr_sub_two]
  simp only [writesOperand, resolve, resolveEA, stepOf_word, bind_apply, readReg_apply, writeReg_apply, pure_apply,
    writeOp, memWrite_odd h']

/-- Settles O16: the raises of the resolver, of the accesses, and of every instruction's leading pieces. -/
theorem faultsInsideResolutionKeepTheStep : Obligations.FaultsInsideResolutionKeepTheStep := by
  refine ⟨resolutionRaisesAfterItsSteps, fun s u t o w op e _ => ⟨readOp_error, fun _ => writeOp_error,
    fun _ => writeOpSext_error⟩, stopsWhereItsOperandRaises, stopsWhereEitherOperandRaises, fun s r h => ⟨?_, ?_⟩⟩
  · obtain ⟨htst, -, -⟩ := singleOperand_stopsWhere (f := .tst) (w := .word) ⟨.autoIncDeferred, r⟩ (by simp)
    exact htst s _ _ (resolveEA_autoIncDeferred_odd .word h)
  · obtain ⟨-, -, hclr⟩ := singleOperand_stopsWhere (f := .clr) (w := .word) ⟨.autoDec, r⟩
      (by simp [singleStores])
    exact hclr (by simp) 0 s _ _ (writesOperand_autoDec_odd 0 h)

end Sys2Proof.Machine
end

section
/-! Reading an operand and writing it back (40_addressing_modes.md R180). -/

namespace Sys2Proof.Machine

open Sys2Proof.Claims

/-! ### Memory -/

/-- A byte written back leaves a canonical memory as it was. -/
theorem setByte_byteAt {s : State} (a : Word) (h : s.mem.wf = true) : s.setByte a (s.byteAt a) = s := by
  have hmem : s.mem.set a.toNat (s.byteAt a) = s.mem := by
    refine Memory.ext_of_get (setByte_wf s a _ h) h fun c => ?_
    by_cases hc : c = a.toNat
    · subst hc
      exact Memory.get_set_same _ _ h
    · exact Memory.get_set_other _ _ _ _ hc
  rw [State.setByte, hmem]

theorem lowByte_zext (b : Byte) : lowByte (zext b) = b := by
  rw [lowByte_eq_ofNat, zext, BitVec.toNat_setWidth_of_le (by decide), BitVec.ofNat_toNat, BitVec.setWidth_eq]

theorem lowByte_wordOfBytes (lo hi : Byte) : lowByte (wordOfBytes lo hi) = lo := BitVec.extractLsb'_append_eq_right

theorem highByte_wordOfBytes (lo hi : Byte) : highByte (wordOfBytes lo hi) = hi := BitVec.extractLsb'_append_eq_left

theorem arrayWrite_arrayRead {s : State} (w : Width) (a : Word) (h : s.mem.wf = true) :
    s.arrayWrite w a (s.arrayRead w a) = s := by
  cases w
  · rw [State.arrayRead, State.arrayWrite, lowByte_zext, setByte_byteAt a h]
  · rw [State.arrayRead, State.arrayWrite, lowByte_wordOfBytes, highByte_wordOfBytes, setByte_byteAt a h,
      setByte_byteAt (a + 1) h]

/-! ### Registers -/

theorem lowByte_truncTo (w : Width) (v : Word) : lowByte (truncTo w v) = lowByte v := by
  have hmask : (maskOf w).extractLsb' 0 8 = BitVec.allOnes 8 := by cases w <;> rfl
  rw [lowByte, truncTo, BitVec.extractLsb'_and, hmask, BitVec.and_allOnes, lowByte]

theorem reg_setReg_self (s : State) (r q : Reg) : (s.setReg r (s.reg r)).reg q = s.reg q := by
  rw [reg_setReg]
  split
  · next h => rw [h]
  · rfl

/-! ### Operands -/

@[simp] theorem devRead_afterResolve (s : State) (o : Specifier) (w : Width) :
    (afterResolve s o w).devRead = s.devRead := by
  unfold afterResolve; split <;> simp [afterFetch]

@[simp] theorem devWrite_afterResolve (s : State) (o : Specifier) (w : Width) :
    (afterResolve s o w).devWrite = s.devWrite := by
  unfold afterResolve; split <;> simp [afterFetch]

/-- Writing back what a read of the operand answers leaves memory, PSW and register values as they were. -/
theorem afterWriteOp_valueOf {s : State} (op : Operand) (w : Width) (hm : s.mem.wf = true) (hr : s.devRead = [])
    (hw : s.devWrite = []) :
    (afterWriteOp s op w (valueOf s op w)).mem = s.mem ∧ (afterWriteOp s op w (valueOf s op w)).psw = s.psw ∧
    ∀ r, (afterWriteOp s op w (valueOf s op w)).reg r = s.reg r := by
  cases op with
  | reg q =>
    have hsame : afterWriteOp s (.reg q) w (valueOf s (.reg q) w) = s.setReg q (s.reg q) := by
      cases w
      · have hbytes : highByte (s.reg q) ++ lowByte (s.reg q) = s.reg q := BitVec.extractLsb'_append_extractLsb'
        rw [afterWriteOp, valueOf, lowByte_truncTo, hbytes]
      · rw [afterWriteOp, valueOf, truncTo_word]
    rw [hsame]
    exact ⟨rfl, rfl, reg_setReg_self s q⟩
  | mem ea =>
    have hread : s.routedRead ea = false := by simp [State.routedRead, hr]
    have hwrite : s.routedWrite ea = false := by simp [State.routedWrite, hw]
    have hsame : afterWriteOp s (.mem ea) w (valueOf s (.mem ea) w) = s := by
      rw [afterWriteOp, valueOf, busValue_array hread, afterWrite_array hwrite, arrayWrite_arrayRead w ea hm]
    simp only [hsame, implies_true, and_self]

theorem afterReadOp_unrouted {s : State} (op : Operand) (w : Width) (h : s.devRead = []) : afterReadOp s op w = s := by
  cases op with
  | reg r => rfl
  | mem ea => exact afterRead_array (by simp [State.routedRead, h])

/-- Settles O17: with nothing routed a read changes nothing, and `afterWriteOp_valueOf` says what the write leaves. -/
theorem writingBackTheSameValueChangesNothing : Obligations.WritingBackTheSameValueChangesNothing := by
  intro s o w hm hready hr hw
  simp only [specReady, Bool.and_eq_true] at hready
  obtain ⟨hres, hacc⟩ := hready
  have hread := readOp_ok hacc
  rw [afterReadOp_unrouted _ w (by simpa using hr)] at hread
  obtain ⟨hmem, hpsw, hregs⟩ :=
    afterWriteOp_valueOf (operandOf s o w) w (s := afterResolve s o w) (by simpa using hm) (by simpa using hr)
      (by simpa using hw)
  exact ⟨_, _, _, _, _, resolve_ok w hres, hread, writeOp_ok _ hacc, by simpa using hmem, by simpa using hpsw, hregs⟩

end Sys2Proof.Machine
end

section
/-! JMP, and the illegal mode of JMP and JSR (43_single_operand.md R261, 40_addressing_modes.md R178). -/

namespace Sys2Proof.Machine

/-- Settles O35: JMP and JSR begin with `resolveJump`. -/
theorem jumpAndItsIllegalMode : Obligations.JumpAndItsIllegalMode := by
  intro s o r
  refine ⟨decodeWord_encodeWord (i := .jmp o) rfl, fun hm hres => finish_ok ?_,
    fun hm => ⟨finish_fault ?_, finish_fault ?_⟩⟩
  · rw [bind_apply, resolveJump_ok hm hres]
    rfl
  · rw [bind_apply, resolveJump_register hm]
  · rw [jumpSubroutine, bind_apply, resolveJump_register hm]

end Sys2Proof.Machine
end

section
/-! The Branch family (41_branch.md R200 to R216): one rule for `branchIf`, and each branch by its word and condition. -/

namespace Sys2Proof.Machine

open Sys2Proof.Claims

/-- R200: twice the sign-extended offset is twice the signed offset, modulo 2^16. -/
theorem add_two_mul_sext (a : Word) (off : Byte) : a + 2 * sext off = BitVec.ofInt 16 (a.toInt + 2 * off.toInt) := by
  rw [BitVec.ofInt_add, BitVec.ofInt_mul, BitVec.ofInt_toInt]
  rfl

theorem branchIf_ok (cond : Word → Bool) (off : Byte) (s : State) : branchIf cond off s =
    .ok () (if cond s.psw then s.setReg .r7 (BitVec.ofInt 16 ((s.reg .r7).toInt + 2 * off.toInt)) else s) := by
  rw [← add_two_mul_sext]
  simp only [branchIf, bind_apply, readPsw_apply]
  cases cond s.psw <;> rfl

theorem xor_eq_decide_ne (x y : Bool) : (x ^^ y) = decide (x ≠ y) := by decide +revert

/-- A branch takes its word from its core spelling and its meaning from `branchIf`; what is left to show is that its
condition depends on the four flags as `cond` says. -/
theorem branches_of_cond (c : Word → Bool) {name core : BitVec 8 → Instr} {code : BitVec 8}
    {cond : Bool → Bool → Bool → Bool → Bool} (hcond : ∀ p, c p = cond (flagN p) (flagZ p) (flagV p) (flagC p))
    (hcode : ∀ off, encodeWord (core off) = code ++ off) (halias : ∀ off, (core off).isAlias = false)
    (hexec : ∀ off s, exec (name off) s = finish (branchIf c off) s) :
    Branches name code core cond := by
  refine fun off => ⟨hcode off ▸ decodeWord_encodeWord (halias off), fun s => ?_⟩
  rw [hexec, finish_ok (branchIf_ok c off s), hcond]
  rfl

/-- Settles O21: each branch is `branchIf` of its condition, and the condition is the rule's formula over the flags. -/
theorem signedBranches : Obligations.SignedBranches :=
  ⟨branches_of_cond condAlways (fun _ => rfl) (fun _ => rfl) (fun _ => rfl) fun _ _ => rfl,
    branches_of_cond condNe (by simp [condNe]) (fun _ => rfl) (fun _ => rfl) fun _ _ => rfl,
    branches_of_cond condEq (by simp [condEq]) (fun _ => rfl) (fun _ => rfl) fun _ _ => rfl,
    branches_of_cond condGe (by simp [condGe, xor_eq_decide_ne]) (fun _ => rfl) (fun _ => rfl) fun _ _ => rfl,
    branches_of_cond condLt (by simp [condLt, xor_eq_decide_ne]) (fun _ => rfl) (fun _ => rfl) fun _ _ => rfl,
    branches_of_cond condGt (by simp [condGt, xor_eq_decide_ne]) (fun _ => rfl) (fun _ => rfl) fun _ _ => rfl,
    branches_of_cond condLe (by simp [condLe, xor_eq_decide_ne, Bool.decide_or]) (fun _ => rfl) (fun _ => rfl)
      fun _ _ => rfl⟩

/-- Settles O22: as O21; BHIS and BLO run `branchIf` of the conditions of BCC and BCS. -/
theorem unsignedAndFlagBranches : Obligations.UnsignedAndFlagBranches :=
  ⟨branches_of_cond condPlus (by simp [condPlus]) (fun _ => rfl) (fun _ => rfl) fun _ _ => rfl,
    branches_of_cond condMinus (by simp [condMinus]) (fun _ => rfl) (fun _ => rfl) fun _ _ => rfl,
    branches_of_cond condHigher (by simp [condHigher]) (fun _ => rfl) (fun _ => rfl) fun _ _ => rfl,
    branches_of_cond condLowerSame (by simp [condLowerSame]) (fun _ => rfl) (fun _ => rfl) fun _ _ => rfl,
    branches_of_cond condOverflowClear (by simp [condOverflowClear]) (fun _ => rfl) (fun _ => rfl) fun _ _ => rfl,
    branches_of_cond condOverflowSet (by simp [condOverflowSet]) (fun _ => rfl) (fun _ => rfl) fun _ _ => rfl,
    branches_of_cond condCarryClear (by simp [condCarryClear]) (fun _ => rfl) (fun _ => rfl) fun _ _ => rfl,
    branches_of_cond condCarrySet (by simp [condCarrySet]) (fun _ => rfl) (fun _ => rfl) fun _ _ => rfl,
    branches_of_cond condCarryClear (by simp [condCarryClear]) (fun _ => rfl) (fun _ => rfl) fun _ _ => rfl,
    branches_of_cond condCarrySet (by simp [condCarrySet]) (fun _ => rfl) (fun _ => rfl) fun _ _ => rfl⟩

end Sys2Proof.Machine
end

section
/-! The branch conditions after CMP and CMPB (41_branch.md R217): N xor V, the sign of the difference and its overflow,
tells the signed order of the operands; C tells their unsigned order and Z their equality. -/

namespace Sys2Proof.Machine

open Sys2Proof.Claims

/-! ### A comparison that goes through -/

theorem compareOnly_ok {s : State} {src dst : Specifier} {w : Width} (flags : Word → Word → Pattern)
    (hs : specReady s src w = true) (hd : specReady (readSpec s src w).after dst w = true) :
    compareOnly w src dst flags s = .ok () ((readSpec (readSpec s src w).after dst w).after.setFlags
      (flags (readSpec s src w).value (readSpec (readSpec s src w).after dst w).value)) := by
  simp only [compareOnly, bind_apply, resolve_of_ready hs, readOp_of_ready hs, resolve_of_ready hd, readOp_of_ready hd,
    setFlags_apply]

/-! ### Values of a width -/

theorem lowByte_sub (a d : Word) : lowByte (a - d) = lowByte a - lowByte d := by
  refine BitVec.eq_of_toNat_eq ?_
  simp only [lowByte_eq_ofNat, BitVec.toNat_sub, BitVec.toNat_ofNat]
  omega

theorem zext_lowByte (v : Word) : zext (lowByte v) = truncTo .byte v := by
  rw [lowByte_eq_ofNat, truncTo_byte_eq_ofNat]
  refine BitVec.eq_of_toNat_eq ?_
  simp only [zext, BitVec.toNat_setWidth, BitVec.toNat_ofNat]

theorem lowByte_inj {a d : Word} (ha : truncTo .byte a = a) (hd : truncTo .byte d = d) :
    lowByte a = lowByte d ↔ a = d :=
  ⟨fun h => by rw [← ha, ← hd, ← zext_lowByte, ← zext_lowByte, h], congrArg lowByte⟩

theorem msbOf_byte (v : Word) : msbOf .byte v = (lowByte v).msb := by
  simp [msbOf, lowByte, BitVec.msb_eq_getLsbD_last]

theorem msbOf_word (v : Word) : msbOf .word v = v.msb := (BitVec.msb_eq_getLsbD_last v).symm

theorem and_twoPow_ne_zero {i : Nat} (v : Word) (hi : i < 16) : (v &&& BitVec.twoPow 16 i != 0) = v.getLsbD i := by
  have hpow : BitVec.twoPow 16 i ≠ 0 := by decide +revert
  rw [BitVec.and_twoPow]
  cases v.getLsbD i with
  | false => rfl
  | true => exact bne_iff_ne.mpr hpow

theorem and_signOf_ne_zero (w : Width) (v : Word) : (v &&& signOf w != 0) = msbOf w v := by
  cases w with
  | byte => exact and_twoPow_ne_zero v (i := 7) (by decide)
  | word => exact and_twoPow_ne_zero v (i := 15) (by decide)

/-- The signed order is the sign of the difference, turned round where the difference overflows. -/
theorem slt_eq_msb_sub_xor_ssubOverflow {n : Nat} (x y : BitVec n) : x.slt y = ((x - y).msb ^^ x.ssubOverflow y) := by
  cases h : x.ssubOverflow y with
  | false =>
    rw [BitVec.slt_eq_decide, BitVec.msb_eq_toInt, BitVec.toInt_sub_of_not_ssubOverflow (by simp [h]), Bool.xor_false]
    exact decide_eq_decide.mpr sub_neg.symm
  | true =>
    have hsigns : x.msb ≠ y.msb ∧ (x - y).msb = y.msb := by
      rw [BitVec.ssubOverflow_eq] at h
      generalize x.msb = a, y.msb = b, (x - y).msb = c at h
      decide +revert
    obtain ⟨hne, hsub⟩ := hsigns
    have hlt : x.slt y = !y.msb := by
      rw [BitVec.msb_eq_toInt, BitVec.msb_eq_toInt, ne_eq, decide_eq_decide] at hne
      rw [BitVec.slt_eq_decide, BitVec.msb_eq_toInt, ← decide_not, decide_eq_decide]
      omega
    rw [hlt, hsub, Bool.xor_true]

/-- The V of R342 is the library's signed overflow of a subtraction. -/
theorem msb_xor_and_xor_sub {n : Nat} (x y : BitVec n) :
    ((x ^^^ y) &&& (x ^^^ (x - y))).msb = x.ssubOverflow y := by
  rw [BitVec.msb_and, BitVec.msb_xor, BitVec.msb_xor, BitVec.ssubOverflow_eq]
  generalize x.msb = a, y.msb = b, (x - y).msb = c
  decide +revert

theorem lowByte_cmpResult (w : Width) (a d : Word) : lowByte (cmpResult w a d) = lowByte a - lowByte d := by
  rw [cmpResult, lowByte_truncTo, lowByte_sub]

/-- N xor V of CMP is the signed order of its operands (R217), each width reading its own bits of them. -/
theorem cmp_n_xor_v (w : Width) (a d : Word) :
    (msbOf w (cmpResult w a d) ^^ (((a ^^^ d) &&& (a ^^^ cmpResult w a d) &&& signOf w) != 0)) =
      decide (signedAt w a < signedAt w d) := by
  rw [and_signOf_ne_zero]
  cases w with
  | byte =>
    have hv : lowByte ((a ^^^ d) &&& (a ^^^ cmpResult .byte a d)) =
        (lowByte a ^^^ lowByte d) &&& (lowByte a ^^^ lowByte (cmpResult .byte a d)) := by
      simp only [lowByte, BitVec.extractLsb'_and, BitVec.extractLsb'_xor]
    rw [msbOf_byte, msbOf_byte, hv, lowByte_cmpResult, msb_xor_and_xor_sub, ← slt_eq_msb_sub_xor_ssubOverflow]
    exact BitVec.slt_eq_decide
  | word =>
    rw [msbOf_word, msbOf_word, cmpResult, truncTo_word, msb_xor_and_xor_sub, ← slt_eq_msb_sub_xor_ssubOverflow]
    exact BitVec.slt_eq_decide

section operands

variable {w : Width} {a d : Word} (ha : truncTo w a = a) (hd : truncTo w d = d)
include ha hd

theorem signedAt_inj : signedAt w a = signedAt w d ↔ a = d := by
  cases w with
  | byte => exact BitVec.toInt_inj.trans (lowByte_inj ha hd)
  | word => exact BitVec.toInt_inj

theorem isZeroAt_cmpResult : isZeroAt w (cmpResult w a d) = decide (a = d) := by
  rw [isZeroAt, cmpResult, truncTo_truncTo, Bool.beq_eq_decide_eq, decide_eq_decide]
  cases w with
  | byte =>
    have hz : truncTo .byte (0 : Word) = 0 := rfl
    have hlow := lowByte_inj (truncTo_truncTo .byte (a - d)) hz
    rw [← hlow, lowByte_truncTo, lowByte_sub, ← lowByte_inj ha hd]
    exact sub_eq_zero
  | word =>
    rw [truncTo_word]
    exact sub_eq_zero

end operands

/-! ### The conditions on the PSW that CMP leaves -/

/-- The PSW that CMP of `a` with `d` leaves. -/
def cmpPsw (w : Width) (a d p : Word) : Word := applyPattern (cmpFlags w a d (cmpResult w a d)) p

theorem condLt_cmpPsw (w : Width) (a d p : Word) :
    condLt (cmpPsw w a d p) = decide (signedAt w a < signedAt w d) := by
  rw [condLt, cmpPsw, flagN_applyPattern, flagV_applyPattern]
  exact cmp_n_xor_v w a d

theorem condCarrySet_cmpPsw (w : Width) (a d p : Word) : condCarrySet (cmpPsw w a d p) = decide (a.toNat < d.toNat) :=
  flagC_applyPattern _ _

theorem condGe_cmpPsw (w : Width) (a d p : Word) :
    condGe (cmpPsw w a d p) = decide (signedAt w d ≤ signedAt w a) := by
  have hge : condGe (cmpPsw w a d p) = !condLt (cmpPsw w a d p) := rfl
  rw [hge, condLt_cmpPsw, ← decide_not, decide_eq_decide, not_lt]

theorem condCarryClear_cmpPsw (w : Width) (a d p : Word) :
    condCarryClear (cmpPsw w a d p) = decide (d.toNat ≤ a.toNat) := by
  have hcc : condCarryClear (cmpPsw w a d p) = !condCarrySet (cmpPsw w a d p) := rfl
  rw [hcc, condCarrySet_cmpPsw, ← decide_not, decide_eq_decide, not_lt]

section operands

variable {w : Width} {a d : Word} (ha : truncTo w a = a) (hd : truncTo w d = d) (p : Word)
include ha hd

theorem condEq_cmpPsw : condEq (cmpPsw w a d p) = decide (a = d) :=
  (flagZ_applyPattern _ _).trans (isZeroAt_cmpResult ha hd)

theorem condNe_cmpPsw : condNe (cmpPsw w a d p) = decide (a ≠ d) :=
  (congrArg (!·) (condEq_cmpPsw ha hd p)).trans decide_not.symm

theorem condLe_cmpPsw : condLe (cmpPsw w a d p) = decide (signedAt w a ≤ signedAt w d) := by
  have hle : condLe (cmpPsw w a d p) = (condEq (cmpPsw w a d p) || condLt (cmpPsw w a d p)) := rfl
  rw [hle, condEq_cmpPsw ha hd, condLt_cmpPsw, ← Bool.decide_or, decide_eq_decide, ← signedAt_inj ha hd,
    le_iff_eq_or_lt]

theorem condGt_cmpPsw : condGt (cmpPsw w a d p) = decide (signedAt w d < signedAt w a) := by
  have hgt : condGt (cmpPsw w a d p) = !condLe (cmpPsw w a d p) := rfl
  rw [hgt, condLe_cmpPsw ha hd, ← decide_not, decide_eq_decide, not_le]

theorem condLowerSame_cmpPsw : condLowerSame (cmpPsw w a d p) = decide (a.toNat ≤ d.toNat) := by
  have hls : condLowerSame (cmpPsw w a d p) = (condCarrySet (cmpPsw w a d p) || condEq (cmpPsw w a d p)) := rfl
  rw [hls, condEq_cmpPsw ha hd, condCarrySet_cmpPsw, ← Bool.decide_or, decide_eq_decide, ← BitVec.toNat_inj,
    le_iff_lt_or_eq]

theorem condHigher_cmpPsw : condHigher (cmpPsw w a d p) = decide (d.toNat < a.toNat) := by
  have hhi : condHigher (cmpPsw w a d p) = !condLowerSame (cmpPsw w a d p) := (Bool.not_or _ _).symm
  rw [hhi, condLowerSame_cmpPsw ha hd, ← decide_not, decide_eq_decide, not_le]

end operands

/-- Settles O44: CMP leaves `cmpPsw` of the two operands' values, which have the operands' width. -/
theorem branchesAfterCompareAreComparisons : Obligations.BranchesAfterCompareAreComparisons := by
  intro w src dst s hs hd a d
  have ha : truncTo w a = a := truncTo_readSpec_value s src w
  have hd' : truncTo w d = d := truncTo_readSpec_value (readSpec s src w).after dst w
  exact ⟨_, (exec_cmp w src dst s).trans (finish_ok (compareOnly_ok _ hs hd)),
    condEq_cmpPsw ha hd' _, condNe_cmpPsw ha hd' _, condGt_cmpPsw ha hd' _, condGe_cmpPsw w a d _,
    condLt_cmpPsw w a d _, condLe_cmpPsw ha hd' _, condHigher_cmpPsw ha hd' _, condCarryClear_cmpPsw w a d _,
    condCarrySet_cmpPsw w a d _, condLowerSame_cmpPsw ha hd' _⟩

end Sys2Proof.Machine
end

section
/-! HALT, WAIT and NOP, the stubs, and the return from a trap (42_no_operand.md R230 to R243, 43_single_operand.md R290,
47_other.md R384, 60_exceptions.md R435): what `Unimplemented` answers under each policy, and what `trapReturn`
leaves. -/

namespace Sys2Proof.Machine

/-! ### The return from a trap -/

theorem stackReady_iff {s : State} : stackReady s = true ↔ busFree s = true ∧ isOddAddr (s.reg .r6) = false := by
  simp only [stackReady, Bool.and_eq_true, Bool.not_eq_true']

theorem isOddAddr_add_two (a : Word) : isOddAddr (a + 2) = isOddAddr a := by
  rw [← isOddAddr_sub_two, add_sub_cancel_right]

/-- The state of `trapReturn` between its two pops: the first has loaded the PC (R435). -/
def afterPopPc (s : State) : State := (afterPop s).setReg .r7 (popValue s)

theorem reg_r6_afterPopPc (s : State) : (afterPopPc s).reg .r6 = s.reg .r6 + 2 := by
  simp [afterPopPc, afterPop]

theorem stackReady_afterPopPc {s : State} (h : stackReady s = true) : stackReady (afterPopPc s) = true := by
  rw [stackReady_iff, reg_r6_afterPopPc, isOddAddr_add_two]
  simpa [afterPopPc, afterPop] using stackReady_iff.mp h

theorem trapReturn_ok {s : State} (h : stackReady s = true) :
    trapReturn s = .ok () { afterPop (afterPopPc s) with psw := popValue (afterPopPc s) } := by
  have hpc : (afterPop s).setReg .r7 (popValue s) = afterPopPc s := rfl
  simp only [trapReturn, bind_apply, pop_ok h, writeReg_apply, hpc, pop_ok (stackReady_afterPopPc h), writePsw_apply]

theorem trapReturn_odd {s : State} (h : isOddAddr (s.reg .r6) = true) :
    trapReturn s = .error (.fault (.busFault .oddAddress (s.reg .r6))) s := by
  simp only [trapReturn, bind_apply, pop_odd h]

theorem exec_trapReturn {i : Instr} (hi : i = .rti ∨ i = .rtt) (s : State) : exec i s = finish trapReturn s := by
  rcases hi with rfl | rfl <;> rfl

/-- Settles O27: RTI and RTT are `trapReturn`, two pops with SP 2 higher at the second. -/
theorem trapReturnsPopPcAndPsw : Obligations.TrapReturnsPopPcAndPsw := by
  refine ⟨decodeWord_encodeWord (i := .rti) rfl, decodeWord_encodeWord (i := .rtt) rfl,
    fun s i hi => ⟨fun he hb => ?_, fun ho => ?_⟩⟩
  · have hsp : s.reg .r6 + 2 + 2 = s.reg .r6 + 4 := add_assoc _ _ _
    rw [exec_trapReturn hi, finish_ok (trapReturn_ok (stackReady_iff.mpr ⟨hb, he⟩)), afterPop, popValue,
      reg_r6_afterPopPc, hsp]
    rfl
  · rw [exec_trapReturn hi, finish_fault (trapReturn_odd ho)]

/-! ### HALT and WAIT -/

theorem stopCore_apply (r : StopReason) (s : State) : stopCore r s = .ok () (s.stop r) := rfl

/-- Settles O24: `stopCore` stops with its reason and cannot raise. -/
theorem haltAndWaitStop : Obligations.HaltAndWaitStop :=
  ⟨decodeWord_encodeWord (i := .halt) rfl, decodeWord_encodeWord (i := .wait) rfl,
    fun s => ⟨finish_ok (stopCore_apply .halt s), finish_ok (stopCore_apply .wait s)⟩⟩

/-! ### The stubs and NOP -/

theorem unimplemented_nop {s : State} (k : Stub) (h : s.params.unimplPolicy = .nop) :
    unimplemented k s = .ok () s := by
  simp only [unimplemented, bind_apply, get_apply, h, pure_apply]

theorem unimplemented_fault {s : State} (k : Stub) (h : s.params.unimplPolicy = .fault) :
    unimplemented k s = .error (.fault (.unimplemented k)) s := by
  simp only [unimplemented, bind_apply, get_apply, h, raise_apply]

/-- Settles O25: each stub is `unimplemented` of its name, by its word and in each policy. -/
theorem stubsAndNop : Obligations.StubsAndNop := by
  refine ⟨rfl, decodeWord_encodeWord (i := .reset) rfl, fun s o nn =>
    ⟨decodeWord_encodeWord (i := .mark nn) rfl, decodeWord_encodeWord (i := .mfpi o) rfl,
      decodeWord_encodeWord (i := .mtpi o) rfl, decodeWord_encodeWord (i := .mfpd o) rfl,
      decodeWord_encodeWord (i := .mtpd o) rfl, fun hnop => ?_, fun hfault => ?_, rfl⟩⟩
  · have hstub (k : Stub) : finish (unimplemented k) s = .next s := finish_ok (unimplemented_nop k hnop)
    exact ⟨hstub .reset, hstub .mark, hstub .mfpi, hstub .mtpi, hstub .mfpd, hstub .mtpd⟩
  · have hstub (k : Stub) : finish (unimplemented k) s = .next (s.stop (.fault (.unimplemented k))) :=
      finish_fault (unimplemented_fault k hfault)
    exact ⟨hstub .reset, hstub .mark, hstub .mfpi, hstub .mtpi, hstub .mfpd, hstub .mtpd⟩

end Sys2Proof.Machine
end

section
/-! The single-operand results and flags (43_single_operand.md R260 to R275): one rule for each access pattern, then each
instruction by its word, its pattern and the reading of its flags on a result masked to the width. -/

namespace Sys2Proof.Machine

open Sys2Proof.Claims

/-! ### The access patterns that go through -/

theorem readModifyWrite_ok {s : State} {o : Specifier} {w : Width} (f : Word → Word → Word)
    (flags : Word → Word → Word → Pattern) (h : specReady s o w = true) :
    readModifyWrite w o f flags s = .ok () ((afterWriteOp (readSpec s o w).after (readSpec s o w).op w
      (f (readSpec s o w).value s.psw)).setFlags
        (flags (readSpec s o w).value (f (readSpec s o w).value s.psw) s.psw)) := by
  simp only [readModifyWrite, bind_apply, resolve_of_ready h, readOp_of_ready h, readPsw_apply, psw_readSpec,
    writeOp_ok _ (canAccess_of_ready h), setFlags_apply]

theorem readOnly_ok {s : State} {o : Specifier} {w : Width} (flags : Word → Pattern) (h : specReady s o w = true) :
    readOnly w o flags s = .ok () ((readSpec s o w).after.setFlags (flags (readSpec s o w).value)) := by
  simp only [readOnly, bind_apply, resolve_of_ready h, readOp_of_ready h, setFlags_apply]

/-! ### Words and meanings by width -/

/-- At each width an instruction of the byte-capable format (30_encoding.md R113, R114) that runs the piece. -/
def RunsSingle (name : Width → Specifier → Instr) (code : BitVec 9) (m : Width → Specifier → Exec Unit) : Prop :=
  ∀ w o, encodeWord (name w o) = singleCode w code o ∧ (name w o).isAlias = false ∧
    ∀ s, exec (name w o) s = finish (m w o) s

theorem RunsSingle.decodeWord {name : Width → Specifier → Instr} {code : BitVec 9} {m : Width → Specifier → Exec Unit}
    (h : RunsSingle name code m) (w : Width) (o : Specifier) : decodeWord (singleCode w code o) = .ok (name w o) := by
  obtain ⟨hcode, halias, -⟩ := h w o
  rw [← hcode, decodeWord_encodeWord halias]

theorem RunsSingle.exec_ok {name : Width → Specifier → Instr} {code : BitVec 9} {m : Width → Specifier → Exec Unit}
    (h : RunsSingle name code m) {w : Width} {o : Specifier} {s t : State} (ht : m w o s = .ok () t) :
    exec (name w o) s = .next t := by
  obtain ⟨-, -, hexec⟩ := h w o
  rw [hexec, finish_ok ht]

/-! ### Flags and results of a width -/

/-- On a result masked to the width the default Z asks whether the whole of it is 0 (R17). -/
theorem nzFlags_eq_nz {w : Width} {r : Word} (h : truncTo w r = r) (v c : Option Bool) : nzFlags w r v c = nz w r v c := by
  simp only [nzFlags, nz, isZeroAt, h, beq_eq_decide]

theorem truncTo_or (w : Width) (a b : Word) : truncTo w (a ||| b) = truncTo w a ||| truncTo w b :=
  BitVec.and_or_distrib_right

theorem truncTo_and_of_truncTo {w : Width} {d : Word} (h : truncTo w d = d) (m : Word) : truncTo w (d &&& m) = d &&& m := by
  rw [truncTo, BitVec.and_assoc, BitVec.and_comm m, ← BitVec.and_assoc, ← truncTo, h]

theorem truncTo_ushiftRight_one {w : Width} {d : Word} (h : truncTo w d = d) : truncTo w (d >>> 1) = d >>> 1 := by
  have hm : maskOf w >>> 1 &&& maskOf w = maskOf w >>> 1 := by cases w <;> rfl
  have hd : d >>> 1 = d >>> 1 &&& maskOf w >>> 1 := by rw [← BitVec.ushiftRight_and_distrib, ← truncTo, h]
  rw [truncTo, hd, BitVec.and_assoc, hm]

theorem truncTo_carryIn (w : Width) (p : Word) : truncTo w (carryIn p) = carryIn p := by
  unfold carryIn
  split <;> cases w <;> rfl

theorem truncTo_signOf (w : Width) : truncTo w (signOf w) = signOf w := by cases w <;> rfl

/-- The carry shifted to the top of the width is its sign bit (R272). -/
theorem carryIn_shiftLeft (w : Width) (p : Word) : carryIn p <<< (bitsOf w - 1) = if flagC p then signOf w else 0 := by
  unfold carryIn
  split <;> cases w <;> rfl

theorem truncTo_rorResult {w : Width} {d : Word} (p : Word) (h : truncTo w d = d) :
    truncTo w (rorResult w d p) = rorResult w d p := by
  rw [rorResult, carryIn_shiftLeft, truncTo_or, truncTo_ushiftRight_one h]
  split
  · rw [truncTo_signOf]
  · rw [BitVec.ofNat_eq_ofNat, truncTo_zero]

theorem truncTo_rolResult (w : Width) (d p : Word) : truncTo w (rolResult w d p) = rolResult w d p := by
  rw [rolResult, truncTo_or, truncTo_truncTo, truncTo_carryIn]

theorem truncTo_asrResult {w : Width} {d : Word} (h : truncTo w d = d) : truncTo w (asrResult w d) = asrResult w d := by
  rw [asrResult, truncTo_or, truncTo_ushiftRight_one h, truncTo_and_of_truncTo h]

/-! ### Read, modify, write -/

/-- An instruction that is `readModifyWrite` of `f` and `g` follows the rule if `f` is the rule's result, masked to the
width, and `g` gives the rule's flags on such a result. -/
theorem RunsSingle.storesResult {f : Width → Word → Word → Word} {g : Width → Word → Word → Word → Pattern}
    {name : Width → Specifier → Instr} {code : BitVec 9} {result : Width → Word → Word → Word}
    {flags : Width → Word → Word → Word → Pattern}
    (hrun : RunsSingle name code fun w o => readModifyWrite w o (f w) (g w))
    (hresult : ∀ w d p, f w d p = result w d p)
    (hmask : ∀ w d p, truncTo w d = d → truncTo w (f w d p) = f w d p)
    (hflags : ∀ w d r p, truncTo w r = r → g w d r p = flags w d r p) :
    StoresResult name code result flags := by
  refine fun w o => ⟨hrun.decodeWord w o, fun s h => ?_⟩
  rw [hrun.exec_ok (readModifyWrite_ok _ _ h), hflags _ _ _ _ (hmask _ _ _ (truncTo_readSpec_value s o w)), hresult]

/-- Settles O29: each is `readModifyWrite` of a result that it masks itself. -/
theorem complementIncrementDecrementNegate : Obligations.ComplementIncrementDecrementNegate := by
  refine ⟨RunsSingle.storesResult (f := fun w d _ => comResult w d) (g := fun w _ r _ => comFlags w r) ?com (fun _ _ _ => rfl)
      (fun _ _ _ _ => truncTo_truncTo _ _) fun _ _ _ _ h => nzFlags_eq_nz h _ _,
    RunsSingle.storesResult (f := fun w d _ => incResult w d) (g := fun w d r _ => incFlags w d r) ?inc (fun _ _ _ => rfl)
      (fun _ _ _ _ => truncTo_truncTo _ _) fun _ _ _ _ h => nzFlags_eq_nz h _ _,
    RunsSingle.storesResult (f := fun w d _ => decResult w d) (g := fun w d r _ => decFlags w d r) ?dec (fun _ _ _ => rfl)
      (fun _ _ _ _ => truncTo_truncTo _ _) fun _ _ _ _ h => nzFlags_eq_nz h _ _,
    RunsSingle.storesResult (f := fun w d _ => negResult w d) (g := fun w _ r _ => negFlags w r) ?neg (fun _ _ _ => rfl)
      (fun _ _ _ _ => truncTo_truncTo _ _) fun _ _ _ _ h => ?negFlags⟩
  case negFlags => simp [negFlags, nzFlags_eq_nz h, beq_eq_decide, bne]
  all_goals rintro (_ | _) o <;> exact ⟨rfl, rfl, fun _ => rfl⟩

/-- Settles O30: `readModifyWrite` of a masked result that takes C in; V and C are conjunctions with the C held. -/
theorem addCarry : Obligations.AddCarry := by
  refine RunsSingle.storesResult (f := adcResult) (g := adcFlags) ?run (fun _ _ _ => rfl)
    (fun _ _ _ _ => truncTo_truncTo _ _) fun _ _ _ _ h => ?flags
  case run => rintro (_ | _) o <;> exact ⟨rfl, rfl, fun _ => rfl⟩
  case flags => simp [adcFlags, nzFlags_eq_nz h, flagC, beq_eq_decide]

/-- Settles O32: `readModifyWrite` of results that stay within the width, as ROR and ASR shift a masked value. -/
theorem rotatesAndShifts : Obligations.RotatesAndShifts := by
  refine ⟨RunsSingle.storesResult (f := rorResult) (g := fun w d r _ => shiftFlags w r (d.getLsbD 0)) ?ror
      (fun w d p => congrArg (· ||| d >>> 1) (carryIn_shiftLeft w p)) (fun _ _ p => truncTo_rorResult p)
      fun _ _ _ _ h => nzFlags_eq_nz h _ _,
    RunsSingle.storesResult (f := rolResult) (g := fun w d r _ => shiftFlags w r (msbOf w d)) ?rol (fun _ _ _ => rfl)
      (fun w d p _ => truncTo_rolResult w d p) fun _ _ _ _ h => nzFlags_eq_nz h _ _,
    RunsSingle.storesResult (f := fun w d _ => asrResult w d) (g := fun w d r _ => shiftFlags w r (d.getLsbD 0)) ?asr
      (fun _ _ _ => rfl) (fun _ _ _ => truncTo_asrResult) fun _ _ _ _ h => nzFlags_eq_nz h _ _,
    RunsSingle.storesResult (f := fun w d _ => aslResult w d) (g := fun w d r _ => shiftFlags w r (msbOf w d)) ?asl
      (fun _ _ _ => rfl) (fun _ _ _ _ => truncTo_truncTo _ _) fun _ _ _ _ h => nzFlags_eq_nz h _ _⟩
  all_goals rintro (_ | _) o <;> exact ⟨rfl, rfl, fun _ => rfl⟩

/-! ### SBC -/

/-- R271 leaves V open when d is the most negative number and C is clear. -/
theorem openV_eq_decide (w : Width) (d p : Word) :
    (d == signOf w && !flagC p) = decide (d = signOf w ∧ flagC p = false) := by
  simp [beq_eq_decide]

theorem nzFlags_sbcResult (w : Width) (d p : Word) (v c : Option Bool) :
    nzFlags w (sbcResult w d p) v c = nz w (sbcResult w d p) v c :=
  nzFlags_eq_nz (truncTo_truncTo _ _) v c

theorem sbcFlags_of_closed {w : Width} {d p : Word} (h : ¬ (d = signOf w ∧ flagC p = false)) :
    sbcFlags w d (sbcResult w d p) p false = nz w (sbcResult w d p) (some (decide (d = signOf w ∧ flagC p = true)))
      (some (decide (d = 0 ∧ flagC p = true))) := by
  simp [sbcFlags, nzFlags_sbcResult, h, beq_eq_decide]

theorem sbcFlags_of_open {w : Width} {d p : Word} (v : Bool) (h : d = signOf w ∧ flagC p = false) :
    sbcFlags w d (sbcResult w d p) p v = nz w (sbcResult w d p) (some v) (some false) := by
  simp [sbcFlags, nzFlags_sbcResult, h]

section ready

variable {s : State} {o : Specifier} {w : Width} (h : specReady s o w = true)
include h

theorem subtractCarry_of_closed (hv : ¬ ((readSpec s o w).value = signOf w ∧ flagC s.psw = false)) :
    let d := (readSpec s o w).value
    let r := sbcResult w d s.psw
    subtractCarry w o s = .ok () ((afterWriteOp (readSpec s o w).after (readSpec s o w).op w r).setFlags
      (nz w r (some (decide (d = signOf w ∧ flagC s.psw = true))) (some (decide (d = 0 ∧ flagC s.psw = true))))) := by
  simp only [subtractCarry, bind_apply, resolve_of_ready h, readOp_of_ready h, readPsw_apply, psw_readSpec,
    writeOp_ok _ (canAccess_of_ready h), openV_eq_decide, decide_eq_true_eq, if_neg hv, sbcFlags_of_closed hv,
    setFlags_apply]

/-- The one case draws its V. -/
theorem subtractCarry_of_open (hv : (readSpec s o w).value = signOf w ∧ flagC s.psw = false) :
    let r := sbcResult w (readSpec s o w).value s.psw
    let t := afterWriteOp (readSpec s o w).after (readSpec s o w).op w r
    subtractCarry w o s =
      .ok () ({ t with draws := t.draws + 1 }.setFlags (nz w r (some (Config.freeFlag t.draws)) (some false))) := by
  simp only [subtractCarry, bind_apply, resolve_of_ready h, readOp_of_ready h, readPsw_apply, psw_readSpec,
    writeOp_ok _ (canAccess_of_ready h), openV_eq_decide, decide_eq_true_eq, if_pos hv, drawFlag_apply,
    sbcFlags_of_open _ hv, setFlags_apply]

end ready

theorem runsSingle_sbc : RunsSingle (fun w o => sized w (.sbcb o) (.sbc o)) 0o056 subtractCarry := by
  rintro (_ | _) o <;> exact ⟨rfl, rfl, fun _ => rfl⟩

/-! ### CLR and SXT -/

/-- Settles O33: CLR, CLRB and SXT are `writeOnly`. -/
theorem clearAndSignExtend : Obligations.ClearAndSignExtend := by
  have hclr : RunsSingle (fun w o => sized w (.clrb o) (.clr o)) 0o050 fun w o =>
      writeOnly w o (fun _ => 0) fun _ => clrFlags := by
    rintro (_ | _) o <;> exact ⟨rfl, rfl, fun _ => rfl⟩
  refine ⟨fun w o => ⟨hclr.decodeWord w o, fun s h => hclr.exec_ok (writeOnly_ok _ _ h)⟩, fun o =>
    ⟨decodeWord_encodeWord (i := .sxt o) rfl, fun s h => ?_⟩⟩
  rw [Bool.decide_eq_false]
  exact finish_ok (writeOnly_ok sxtResult sxtFlags h)

/-! ### TST and SWAB -/

theorem swabResult_eq_ofNat (d : Word) : swabResult d = BitVec.ofNat 16 (d.toNat % 256 * 256 + d.toNat / 256) := by
  have hd := d.isLt
  have h := wordOfBytes_eq_ofNat (highByte d) (lowByte d)
  rw [wordOfBytes] at h
  rw [swabResult, h, lowByte_eq_ofNat, highByte_eq_ofNat]
  simp only [BitVec.toNat_ofNat]
  congr 1
  omega

theorem isZeroAt_byte (v : Word) : isZeroAt .byte v = decide (v.toNat % 256 = 0) := by
  have hv := congrArg BitVec.toNat (truncTo_byte_eq_ofNat v)
  rw [BitVec.toNat_ofNat, Nat.mod_eq_of_lt (by omega : v.toNat % 256 < 2 ^ 16)] at hv
  rw [isZeroAt, beq_eq_decide, ← hv]
  exact decide_eq_decide.mpr BitVec.toNat_inj.symm

/-- Settles O34: TST is `readOnly` of a value masked to the width; SWAB is `readModifyWrite`, its flags the byte's. -/
theorem testAndSwapBytes : Obligations.TestAndSwapBytes := by
  have htst : RunsSingle (fun w o => sized w (.tstb o) (.tst o)) 0o057 fun w o => readOnly w o (tstFlags w) := by
    rintro (_ | _) o <;> exact ⟨rfl, rfl, fun _ => rfl⟩
  refine ⟨fun w o => ⟨htst.decodeWord w o, fun s h => ?_⟩, fun o =>
    ⟨decodeWord_encodeWord (i := .swab o) rfl, fun s h => ?_⟩⟩
  · rw [htst.exec_ok (readOnly_ok _ h), tstFlags, nzFlags_eq_nz (truncTo_readSpec_value s o w)]
  · have hexec := finish_ok (readModifyWrite_ok (fun d _ => swabResult d) (fun _ r _ => swabFlags r) h)
    rw [swabFlags, nzFlags, isZeroAt_byte, swabResult_eq_ofNat] at hexec
    exact hexec

end Sys2Proof.Machine

namespace Sys2Proof.SingleOperand

open Sys2Proof.Machine Sys2Proof.Claims

/-- Settles O31: `subtractCarry` in both cases; the V drawn is the bit about which nothing is said. -/
theorem subtractCarry : Obligations.SubtractCarry := fun w o =>
  ⟨runsSingle_sbc.decodeWord w o, fun _ h => ⟨fun hv => runsSingle_sbc.exec_ok (subtractCarry_of_closed h hv),
    fun hv => ⟨_, runsSingle_sbc.exec_ok (subtractCarry_of_open h hv)⟩⟩⟩

end Sys2Proof.SingleOperand
end

section
/-! Frames of instructions whose stored bytes depend on the state (43_single_operand.md R260, 47_other.md R380,
60_exceptions.md R433): frames of pieces from one state, where a later piece may use what an earlier one answered. -/

namespace Sys2Proof.Machine

open Sys2Proof.Claims

/-! ### Frames from one state -/

/-- From this state the piece stays within the frame, wherever it ends. -/
def KeepsAt {α : Type} (s : State) (l : List Reg) (q : Word → Word → Prop) (b : Word → Prop) (m : Exec α) : Prop :=
  ∀ t, Ends m s t → Within l q b s t

/-- The frame of an instruction from one state: that of its pieces, and a fault stops the core. -/
theorem KeepsAt.frame {s t : State} {l : List Reg} {q : Word → Word → Prop} {b : Word → Prop} {m : Exec Unit}
    (hm : KeepsAt s l q b m) (h : finish m s = .next t) :
    keepsRegs s t l ∧ keepsBytes s t b ∧ q s.psw t.psw ∧ keepsLaunch s t ∧ keepsRun s t := by
  obtain ⟨u, hu, ht⟩ := Ends.of_finish h
  obtain ⟨regs, psw, bytes, read, write, prm, lock, start, exec, flag⟩ := hm u hu
  rcases ht with rfl | ⟨f, rfl⟩
  · exact ⟨regs, bytes, psw, ⟨read, write, prm, lock, start⟩, .inl ⟨exec, flag⟩⟩
  · exact ⟨regs, bytes, psw, ⟨read, write, prm, lock, start⟩, .inr ⟨f, rfl, rfl⟩⟩

section pieces

variable {α β : Type} {s : State} {l : List Reg} {q : Word → Word → Prop} {b : Word → Prop} {m : Exec α}

theorem Keeps.at (h : Keeps l q b m) (s : State) : KeepsAt s l q b m := h s

theorem KeepsAt.mono_bytes {b' : Word → Prop} (h : KeepsAt s l q b m) (hb : ∀ c, b c → b' c) : KeepsAt s l q b' m :=
  fun t e => (h t e).mono (fun _ hl => hl) id hb

variable (hr : ∀ x, q x x) (ht : ∀ x y z, q x y → q y z → q x z)
include ht

theorem KeepsAt.bind {f : α → Exec β} (h : KeepsAt s l q b m) (k : ∀ a u, m s = .ok a u → KeepsAt u l q b (f a)) :
    KeepsAt s l q b (m >>= f) := fun t e => by
  obtain ⟨e, he⟩ | ⟨a, u, ha, he⟩ := e.bind
  · exact h t (.inr ⟨e, he⟩)
  · exact (h u (.inl ⟨a, ha⟩)).trans ht (k a u ha t he)

include hr

/-! ### Operands -/

/-- A specifier resolved, and its operand used: the register is the one it names, the bytes are those it stores to. -/
theorem keepsAt_resolve_bind {o : Specifier} {w : Width} {f : Operand → Exec β} (ho : ∀ r ∈ steppedBy o, r ∈ l)
    (hf : ∀ op, (∀ r, op = .reg r → r ∈ namedBy o) →
      Keeps l q (fun c => ∃ ea, op = .mem ea ∧ c ∈ bytesAt w ea) (f op)) :
    KeepsAt s l q (storedBy s o w) (resolve o w >>= f) := by
  refine ((keeps_resolve hr ht o w ho).at s).bind ht fun op u hu => ?_
  refine ((hf op fun r hop => ?_).at u).mono_bytes fun c ⟨ea, hop, hc⟩ => ⟨ea, u, hop ▸ hu, hc⟩
  rw [resolve_reg (hop ▸ hu)]
  exact List.mem_singleton_self r

/-- The write of an operand to the bytes that `keepsAt_resolve_bind` allows. -/
theorem keeps_writeOp_operand (op : Operand) (w : Width) (v : Word) (hl : ∀ r, op = .reg r → r ∈ l) :
    Keeps l q (fun c => ∃ ea, op = .mem ea ∧ c ∈ bytesAt w ea) (writeOp op w v) :=
  keeps_writeOp hr ht op w v hl fun ea hop _ hc => ⟨ea, hop, hc⟩

section single

variable {o : Specifier} {w : Width} (ho : ∀ r ∈ steppedBy o, r ∈ l) (hn : ∀ r ∈ namedBy o, r ∈ l)
include ho hn

theorem keepsAt_readModifyWrite {f : Word → Word → Word} {flags : Word → Word → Word → Pattern}
    (hf : ∀ d r p x, q x (applyPattern (flags d r p) x)) :
    KeepsAt s l q (storedBy s o w) (readModifyWrite w o f flags) :=
  keepsAt_resolve_bind hr ht ho fun op hop => (keeps_readOp hr ht op w).bind ht fun _ =>
    (keeps_readPsw hr).bind ht fun _ => (keeps_writeOp_operand hr ht op w _ fun r e => hn r (hop r e)).bind ht fun _ =>
      keeps_setFlags _ (hf _ _ _)

theorem keepsAt_writeOnly {f : Word → Word} {flags : Word → Pattern} (hf : ∀ p x, q x (applyPattern (flags p) x)) :
    KeepsAt s l q (storedBy s o w) (writeOnly w o f flags) :=
  keepsAt_resolve_bind hr ht ho fun op hop => (keeps_readPsw hr).bind ht fun _ =>
    (keeps_writeOp_operand hr ht op w _ fun r e => hn r (hop r e)).bind ht fun _ => keeps_setFlags _ (hf _)

theorem keepsAt_subtractCarry (hf : ∀ a x, q x (applyPattern a x)) :
    KeepsAt s l q (storedBy s o w) (subtractCarry w o) := by
  refine keepsAt_resolve_bind hr ht ho fun op hop => (keeps_readOp hr ht op w).bind ht fun _ =>
    (keeps_readPsw hr).bind ht fun _ => (keeps_writeOp_operand hr ht op w _ fun r e => hn r (hop r e)).bind ht fun _ => ?_
  split
  · exact (keeps_drawFlag hr).bind ht fun _ => keeps_setFlags _ (hf _)
  · exact keeps_setFlags _ (hf _)

end single

/-! ### Control transfers -/

theorem keeps_branchIf (cond : Word → Bool) (off : BitVec 8) (h7 : Reg.r7 ∈ l) : Keeps l q b (branchIf cond off) := by
  refine (keeps_readPsw hr).bind ht fun _ => ?_
  split
  · exact (keeps_readReg _ hr).bind ht fun _ => keeps_writeReg _ _ hr h7
  · exact keeps_pure _ hr

theorem keeps_returnSubroutine {r : Reg} (h7 : Reg.r7 ∈ l) (h6 : Reg.r6 ∈ l) (h : r ∈ l) :
    Keeps l q b (returnSubroutine r) :=
  (keeps_readReg _ hr).bind ht fun _ => (keeps_writeReg _ _ hr h7).bind ht fun _ => (keeps_pop hr ht h6).bind ht fun _ =>
    keeps_writeReg _ _ hr h

theorem keeps_trapReturn (h7 : Reg.r7 ∈ l) (h6 : Reg.r6 ∈ l) (hp : ∀ v x, q x v) : Keeps l q b trapReturn :=
  (keeps_pop hr ht h6).bind ht fun _ => (keeps_writeReg _ _ hr h7).bind ht fun _ => (keeps_pop hr ht h6).bind ht fun _ =>
    keeps_writePsw _ (hp _)

/-- A push stores to the word below the SP it begins with. -/
theorem keepsAt_push (v : Word) (h6 : Reg.r6 ∈ l) (hb : ∀ c ∈ bytesAt .word (s.reg .r6 - 2), b c) :
    KeepsAt s l q b (push v) :=
  ((keeps_writeReg _ (s.reg .r6 - 2) hr h6).bind ht fun _ => keeps_memWrite .word (s.reg .r6 - 2) v hr hb).at s

end pieces

theorem push_apply (s : State) (v : Word) :
    push v s = memWrite .word (s.reg .r6 - 2) v (s.setReg .r6 (s.reg .r6 - 2)) := rfl

theorem reg_r6_of_push {s t : State} {v : Word} {x : Unit} (h : push v s = .ok x t) : t.reg .r6 = s.reg .r6 - 2 := by
  rw [push_apply] at h
  obtain hw | hw | hw := memWrite_cases (s.setReg .r6 (s.reg .r6 - 2)) .word (s.reg .r6 - 2) v <;>
    rw [hw] at h <;> cases h
  simp

section stack

variable {s : State} {l : List Reg} {q : Word → Word → Prop} (hr : ∀ x, q x x) (ht : ∀ x y z, q x y → q y z → q x z)
include hr ht

/-- JSR stores to the word below the SP that the resolution of its target leaves (R380). -/
theorem keepsAt_jumpSubroutine {r : Reg} {o : Specifier} (h7 : Reg.r7 ∈ l) (h6 : Reg.r6 ∈ l) (h : r ∈ l)
    (ho : ∀ r ∈ steppedBy o, r ∈ l) :
    KeepsAt s l q (fun c => ∃ a u, resolveJump o s = .ok a u ∧ c ∈ bytesAt .word (u.reg .r6 - 2))
      (jumpSubroutine r o) := by
  refine ((keeps_resolveJump hr ht o ho).at s).bind ht fun a u hu => ((keeps_readReg r hr).at u).bind ht ?_
  rintro _ _ ⟨⟩
  refine (keepsAt_push hr ht _ h6 fun c hc => ⟨a, u, hu, hc⟩).bind ht fun _ x _ => ?_
  exact ((keeps_readReg _ hr).bind ht fun _ => (keeps_writeReg _ _ hr h).bind ht fun _ => keeps_writeReg _ _ hr h7).at x

/-- A trap stores to the two words below SP (R433). -/
theorem keepsAt_trapEntry (v : Word) (h7 : Reg.r7 ∈ l) (h6 : Reg.r6 ∈ l) (hp : ∀ v x, q x v) :
    KeepsAt s l q (· ∈ bytesAt .word (s.reg .r6 - 2) ++ bytesAt .word (s.reg .r6 - 4)) (trapEntry v) := by
  refine ((keeps_readPsw hr).at s).bind ht ?_
  rintro _ _ ⟨⟩
  refine (keepsAt_push hr ht _ h6 fun c => List.mem_append_left _).bind ht fun _ u hu =>
    ((keeps_readReg _ hr).at u).bind ht ?_
  rintro _ _ ⟨⟩
  have hsp : u.reg .r6 - 2 = s.reg .r6 - 4 := by rw [reg_r6_of_push hu, sub_sub]; rfl
  refine (keepsAt_push hr ht _ h6 fun c hc => List.mem_append_right _ (hsp ▸ hc)).bind ht fun _ x _ => ?_
  exact ((keeps_memRead _ _ hr).bind ht fun _ => (keeps_writeReg _ _ hr h7).bind ht fun _ =>
    (keeps_memRead _ _ hr).bind ht fun _ => keeps_writePsw _ (hp _)).at x

end stack

/-! ### The single-operand stores -/

/-- PSW bits 15-4 are the same, after INC, DEC and SXT also C, after SXT also N. -/
def keptBy (i : Instr) (o : Specifier) (p p' : Word) : Prop :=
  sameHigh p p' ∧ (i ∈ [.inc o, .incb o, .dec o, .decb o, .sxt o] → flagC p' = flagC p) ∧
  (i = .sxt o → flagN p' = flagN p)

theorem keptBy_refl (i : Instr) (o : Specifier) (p : Word) : keptBy i o p p := ⟨rfl, fun _ => rfl, fun _ => rfl⟩

theorem keptBy_trans (i : Instr) (o : Specifier) (p p' p'' : Word) (h : keptBy i o p p') (k : keptBy i o p' p'') :
    keptBy i o p p'' := by
  obtain ⟨hhigh, hc, hn⟩ := h
  obtain ⟨khigh, kc, kn⟩ := k
  exact ⟨khigh.trans hhigh, fun e => (kc e).trans (hc e), fun e => (kn e).trans (hn e)⟩

/-- The pattern leaves C after INC, DEC and SXT, and N after SXT. -/
def LeavesFor (i : Instr) (o : Specifier) (a : Pattern) : Prop :=
  (i ∈ [.inc o, .incb o, .dec o, .decb o, .sxt o] → a.c = none) ∧ (i = .sxt o → a.n = none)

theorem LeavesFor.keptBy {i : Instr} {o : Specifier} {a : Pattern} (h : LeavesFor i o a) (p : Word) :
    keptBy i o p (applyPattern a p) := by
  obtain ⟨hc, hn⟩ := h
  exact ⟨sameHigh_applyPattern a p, fun e => by simp [hc e], fun e => by simp [hn e]⟩

/-- From every state the instruction keeps all but the PC, the stepped and the named registers, the bytes its operand
stores to, and its flags. -/
def FramesStore (i : Instr) (o : Specifier) (w : Width) : Prop :=
  ∃ m : Exec Unit, (∀ s, exec i s = finish m s) ∧
    ∀ s, KeepsAt s (.r7 :: steppedBy o ++ namedBy o) (keptBy i o) (storedBy s o w) m

theorem mem_of_stepped {o : Specifier} : ∀ r ∈ steppedBy o, r ∈ .r7 :: steppedBy o ++ namedBy o := fun _ h =>
  List.mem_append_left _ (List.mem_cons_of_mem _ h)

theorem mem_of_named {o : Specifier} : ∀ r ∈ namedBy o, r ∈ .r7 :: steppedBy o ++ namedBy o := fun _ =>
  List.mem_append_right _

theorem framesStore_singleStores (o : Specifier) : ∀ p ∈ singleStores, FramesStore (p.1 o) o p.2 := by
  simp only [singleStores, List.forall_mem_cons, List.not_mem_nil, false_imp_iff, implies_true, and_true]
  refine ⟨?swab, ?sxt, ?clr, ?clrb, ?com, ?comb, ?inc, ?incb, ?dec, ?decb, ?neg, ?negb, ?adc, ?adcb, ?sbc, ?sbcb, ?ror,
    ?rorb, ?rol, ?rolb, ?asr, ?asrb, ?asl, ?aslb⟩
  case sxt | clr | clrb =>
    exact ⟨_, fun _ => rfl, fun _ => keepsAt_writeOnly (keptBy_refl _ o) (keptBy_trans _ o) mem_of_stepped mem_of_named
      fun _ => LeavesFor.keptBy (by simp [LeavesFor, sxtFlags])⟩
  case sbc | sbcb =>
    exact ⟨_, fun _ => rfl, fun _ => keepsAt_subtractCarry (keptBy_refl _ o) (keptBy_trans _ o) mem_of_stepped
      mem_of_named fun _ => LeavesFor.keptBy (by simp [LeavesFor])⟩
  all_goals
    exact ⟨_, fun _ => rfl, fun _ => keepsAt_readModifyWrite (keptBy_refl _ o) (keptBy_trans _ o) mem_of_stepped
      mem_of_named fun _ _ _ => LeavesFor.keptBy (by simp [LeavesFor, incFlags, decFlags, nzFlags])⟩

/-- Settles O50: each is one of the three access patterns of R260, with the flags its pattern writes. -/
theorem frameOfSingleOperandStores : Obligations.FrameOfSingleOperandStores := by
  intro s t o f w hf h
  obtain ⟨m, hexec, hm⟩ := framesStore_singleStores o _ hf
  rw [hexec] at h
  obtain ⟨hregs, hbytes, ⟨hhigh, hc, hn⟩, hlaunch, hrun⟩ := (hm s).frame h
  exact ⟨hregs, hbytes, hhigh, hlaunch, hrun, hc, hn⟩

/-! ### The control transfers -/

/-- The PSW is the same. -/
def keepsPsw (p q : Word) : Prop := q = p

theorem keepsPsw_refl (p : Word) : keepsPsw p p := rfl

theorem keepsPsw_trans (p q r : Word) (h : keepsPsw p q) (k : keepsPsw q r) : keepsPsw p r := k.trans h

/-- A whole PSW is loaded (10_state.md R42 (c), (d)). -/
def anyPsw (_ _ : Word) : Prop := True

theorem anyPsw_refl (p : Word) : anyPsw p p := trivial

theorem anyPsw_trans (p q r : Word) (_ : anyPsw p q) (_ : anyPsw q r) : anyPsw p r := trivial

theorem keeps_branches (off : BitVec 8) : ∀ i ∈ branches off,
    ∃ m, (∀ s, exec i s = finish m s) ∧ Keeps [.r7] keepsPsw noBytes m := by
  simp only [branches, List.forall_mem_cons, List.not_mem_nil, false_imp_iff, implies_true, and_true]
  have hcond (cond : Word → Bool) : Keeps [.r7] keepsPsw noBytes (branchIf cond off) :=
    keeps_branchIf keepsPsw_refl keepsPsw_trans cond off (List.mem_singleton_self _)
  refine ⟨⟨_, fun _ => rfl, hcond condAlways⟩, ?_⟩
  and_intros
  all_goals exact ⟨_, fun _ => rfl, hcond _⟩

/-- Settles O53: the frames of the pieces; what JSR and the traps store, from the SP at each push. -/
theorem frameOfControlTransfers : Obligations.FrameOfControlTransfers := by
  refine fun s t r o off => ⟨fun i hi h => ?branch, fun h => ?jmp, fun h => ?jsr, fun h => ?rts, fun i hi h => ?trap,
    fun i hi h => ?ret⟩
  case branch =>
    obtain ⟨m, hexec, hm⟩ := keeps_branches off i hi
    rw [hexec] at h
    exact hm.frame h
  case jmp =>
    exact ((keeps_resolveJump (b := noBytes) keepsPsw_refl keepsPsw_trans o fun _ => List.mem_cons_of_mem _).bind
      keepsPsw_trans fun a => keeps_writeReg .r7 a keepsPsw_refl List.mem_cons_self).frame h
  case jsr =>
    exact (keepsAt_jumpSubroutine keepsPsw_refl keepsPsw_trans (by simp) (by simp) (by simp)
      fun _ hx => by simp [hx]).frame h
  case rts =>
    exact (keeps_returnSubroutine (b := noBytes) keepsPsw_refl keepsPsw_trans (by simp) (by simp) (by simp)).frame h
  case trap =>
    have hexec : ∃ v, exec i s = finish (trapEntry v) s := by
      simp only [List.mem_cons, List.not_mem_nil, or_false] at hi
      obtain rfl | rfl := hi <;> exact ⟨_, rfl⟩
    obtain ⟨v, hexec⟩ := hexec
    rw [hexec] at h
    obtain ⟨hregs, hbytes, -, hkeep⟩ := (keepsAt_trapEntry (l := [.r7, .r6]) anyPsw_refl anyPsw_trans v (by simp) (by simp)
      fun _ _ => trivial).frame h
    exact ⟨hregs, hbytes, hkeep⟩
  case ret =>
    simp only [List.mem_cons, List.not_mem_nil, or_false] at hi
    rw [exec_trapReturn hi] at h
    obtain ⟨hregs, hbytes, -, hkeep⟩ := (keeps_trapReturn (l := [.r7, .r6]) (b := noBytes) anyPsw_refl anyPsw_trans
      (by simp) (by simp) fun _ _ => trivial).frame h
    exact ⟨hregs, hbytes, hkeep⟩

end Sys2Proof.Machine
end

section
/-! `ShiftN` in closed form (44_rss.md R312): the last step taken apart from the steps before it, whose pattern is one
shift. -/

namespace Sys2Proof.Machine

theorem repeatShift_eq_iterate {b : Nat} (f : ShiftState b → ShiftState b) (n : Nat) (x : ShiftState b) :
    repeatShift f n x = f^[n] x := by
  induction n generalizing x with
  | zero => rfl
  | succ n ih => exact ih (f x)

/-- The last step is one more step of the pattern shifted so far. -/
theorem repeatShift_succ {b : Nat} (f : ShiftState b → ShiftState b) (n : Nat) (x : ShiftState b) :
    repeatShift f (n + 1) x = f (repeatShift f n x) := by
  simp only [repeatShift_eq_iterate, Function.iterate_succ_apply']

section steps

variable {b : Nat} (d : BitVec b) (n : Nat) (c v : Bool)

theorem repeatShiftLeft_r : (repeatShift shiftLeftOne n ⟨d, c, v⟩).r = d <<< n := by
  induction n with
  | zero => exact (BitVec.shiftLeft_zero d).symm
  | succ n ih => rw [repeatShift_succ, shiftLeftOne, ih, BitVec.shiftLeft_add]

theorem repeatShiftRight_r : (repeatShift shiftRightOne n ⟨d, c, v⟩).r = d.sshiftRight n := by
  induction n with
  | zero => exact BitVec.sshiftRight_zero.symm
  | succ n ih => rw [repeatShift_succ, shiftRightOne, ih, BitVec.sshiftRight_add]

theorem repeatShiftLeft_c : (repeatShift shiftLeftOne (n + 1) ⟨d, c, v⟩).c = d.getMsbD n := by
  rw [repeatShift_succ, shiftLeftOne, repeatShiftLeft_r, BitVec.msb_shiftLeft]

theorem repeatShiftRight_c : (repeatShift shiftRightOne (n + 1) ⟨d, c, v⟩).c = (d.sshiftRight n).getLsbD 0 := by
  rw [repeatShift_succ, shiftRightOne, repeatShiftRight_r]

theorem repeatShiftRight_v : (repeatShift shiftRightOne n ⟨d, c, v⟩).v = v := by
  induction n with
  | zero => rfl
  | succ n ih => rw [repeatShift_succ, shiftRightOne, ih]

/-- V records a sign change at a step; after the first such step the sign is not the original's. -/
theorem repeatShiftLeft_v :
    (repeatShift shiftLeftOne n ⟨d, c, false⟩).v = true ↔ ∃ k ≤ n, (d <<< k).msb ≠ d.msb := by
  induction n with
  | zero =>
    simp only [repeatShift, Nat.le_zero, exists_eq_left, BitVec.shiftLeft_zero, ne_eq, not_true_eq_false,
      Bool.false_eq_true]
  | succ n ih =>
    have hstep : (repeatShift shiftLeftOne (n + 1) ⟨d, c, false⟩).v = true ↔
        (∃ k ≤ n, (d <<< k).msb ≠ d.msb) ∨ (d <<< (n + 1)).msb ≠ (d <<< n).msb := by
      rw [repeatShift_succ, shiftLeftOne, Bool.or_eq_true, ih, repeatShiftLeft_r, ← BitVec.shiftLeft_add, bne_iff_ne]
    rw [hstep]
    constructor
    · rintro (⟨k, hk, hsign⟩ | hsign)
      · exact ⟨k, Nat.le_succ_of_le hk, hsign⟩
      · by_cases hn : (d <<< n).msb = d.msb
        · exact ⟨n + 1, le_rfl, hn ▸ hsign⟩
        · exact ⟨n, Nat.le_succ n, hn⟩
    · rintro ⟨k, hk, hsign⟩
      obtain hk | rfl := Nat.le_succ_iff.mp hk
      · exact .inl ⟨k, hk, hsign⟩
      · by_cases hn : (d <<< n).msb = d.msb
        · exact .inr (hn ▸ hsign)
        · exact .inl ⟨n, le_rfl, hn⟩

theorem shiftN_left (hn : 0 < n) : shiftN d (n : Int) = repeatShift shiftLeftOne n ⟨d, false, false⟩ := by
  rw [shiftN, if_pos (by omega), Int.toNat_natCast]

theorem shiftN_right : shiftN d (-(n : Int)) = repeatShift shiftRightOne n ⟨d, false, false⟩ := by
  rw [shiftN, if_neg (by omega), neg_neg, Int.toNat_natCast]

end steps

/-- Settles O38: the closed forms of the steps; C is the last step's bit, read off the pattern shifted one less. -/
theorem shiftsStepByStep : Obligations.ShiftsStepByStep := by
  refine fun b d n hb => ⟨fun hn => ?left, fun hn => ?right, shiftN_right d 0⟩
  all_goals obtain ⟨m, rfl⟩ := Nat.exists_eq_succ_of_ne_zero hn.ne'
  case left =>
    rw [shiftN_left d _ hn]
    refine ⟨repeatShiftLeft_r .., ?_, repeatShiftLeft_v ..⟩
    rw [repeatShiftLeft_c, BitVec.getMsbD, Nat.sub_sub, Nat.add_comm 1 m]
    rfl
  case right =>
    rw [shiftN_right]
    refine ⟨repeatShiftRight_r .., ?_, repeatShiftRight_v ..⟩
    rw [repeatShiftRight_c, BitVec.getLsbD_sshiftRight, decide_eq_false (Nat.not_le.mpr hb)]
    rfl

end Sys2Proof.Machine
end

section
/-! The RSS family (44_rss.md R310 to R327): the source read, the pair written, and one rule for each meaning that goes
through. -/

namespace Sys2Proof.Machine

/-! ### The source and the pair -/

theorem readSource_ok {s : State} {o : Specifier} (h : specReady s o .word = true) :
    readSource o s = .ok (readSpec s o .word).value (readSpec s o .word).after := by
  simp only [readSource, bind_apply, resolve_of_ready h, readOp_of_ready h]

/-- The state after `writePair`: an odd register takes the low word only (R310, R314). -/
def State.setPair (s : State) (r : Reg) (l : Long) : State :=
  if r.isOdd then s.setReg r (lowWord l) else (s.setReg r (highWord l)).setReg (oddOf r) (lowWord l)

@[simp] theorem writePair_apply (s : State) (r : Reg) (l : Long) : writePair r l s = .ok () (s.setPair r l) := by
  unfold writePair State.setPair
  split <;> rfl

theorem setPair_of_odd (s : State) {r : Reg} (l : Long) (h : r.isOdd = true) :
    s.setPair r l = s.setReg r (lowWord l) := if_pos h

theorem setPair_of_even (s : State) {r : Reg} (l : Long) (h : r.isOdd = false) :
    s.setPair r l = (s.setReg r (highWord l)).setReg (oddOf r) (lowWord l) := if_neg (by simp [h])

/-! ### MUL -/

theorem lowWord_unsigned32 (p : Int) : lowWord (unsigned32 p) = BitVec.ofInt 16 p := by
  refine BitVec.eq_of_toNat_eq ?_
  rw [lowWord, unsigned32, BitVec.extractLsb'_toNat, Nat.shiftRight_zero, BitVec.toNat_ofInt, BitVec.toNat_ofInt]
  omega

theorem highWord_unsigned32 (p : Int) : highWord (unsigned32 p) = BitVec.ofInt 16 (p / 65536) := by
  refine BitVec.eq_of_toNat_eq ?_
  rw [highWord, unsigned32, BitVec.extractLsb'_toNat, Nat.shiftRight_eq_div_pow, BitVec.toNat_ofInt, BitVec.toNat_ofInt]
  omega

theorem exec_mul_ok {s : State} {r : Reg} {o : Specifier} (h : specReady s o .word = true) :
    let x := readSpec s o .word
    let p := x.value.toInt * (x.after.reg r).toInt
    exec (.mul r o) s = .next ((x.after.setPair r (unsigned32 p)).setFlags (mulFlags p)) := by
  refine finish_ok ?_
  simp only [multiply, bind_apply, readSource_ok h, readReg_apply, writePair_apply, setFlags_apply, signed16, mul_comm]

/-! ### DIV -/

/-- The quotient truncated toward zero is the one whose remainder has the dividend's sign. -/
theorem tdiv_eq_of_remainder {n d q m : Int} (hd : d ≠ 0) (hn : n = q * d + m) (hm : |m| < |d|) (hpos : 0 ≤ n → 0 ≤ m)
    (hneg : n ≤ 0 → m ≤ 0) : n.tdiv d = q := by
  have hsum : m + d * q = n := by rw [hn]; ring
  rw [← Int.natCast_natAbs d] at hm
  obtain ⟨hlow, hhigh⟩ := abs_lt.mp hm
  obtain h | h := le_total 0 n
  · exact ((Int.tdiv_tmod_unique h hd).mpr ⟨hsum, hpos h, hhigh⟩).1
  · exact ((Int.tdiv_tmod_unique' h hd).mpr ⟨hsum, hlow, hneg h⟩).1

/-- What DIV does with a quotient and its remainder (R311, D20). -/
def placeQuotient (r : Reg) (q m : Int) : Exec Unit := do
  if q < -32768 ∨ 32767 < q then
    divideOverflow false
  else if q = -32768 then
    if ← drawFlag then storeQuotient r q m else divideOverflow false
  else
    storeQuotient r q m

/-- V = 1 after two draws, for N and Z (D19). -/
theorem divideOverflow_apply (s : State) (byZero : Bool) : divideOverflow byZero s =
    .ok () ({ s with draws := s.draws + 2 }.setFlags
      (divOpenFlags (Config.freeFlag s.draws) (Config.freeFlag (s.draws + 1)) byZero)) := rfl

theorem storeQuotient_apply (s : State) (r : Reg) (q m : Int) : storeQuotient r q m s =
    .ok () (((s.setReg r (unsigned16 q)).setReg (oddOf r) (unsigned16 m)).setFlags (divFlags q)) := rfl

theorem placeQuotient_of_outside (r : Reg) {q : Int} (m : Int) (h : q < -32768 ∨ 32767 < q) :
    placeQuotient r q m = divideOverflow false := if_pos h

theorem placeQuotient_of_inside (r : Reg) {q : Int} (m : Int) (h : -32768 < q ∧ q ≤ 32767) :
    placeQuotient r q m = storeQuotient r q m := by
  rw [placeQuotient, if_neg (by omega), if_neg (by omega)]

/-- One draw chooses the outcome of the quotient -32768. -/
theorem placeQuotient_of_edge (s : State) (r : Reg) (m : Int) :
    placeQuotient r (-32768) m s = storeQuotient r (-32768) m { s with draws := s.draws + 1 } ∨
    placeQuotient r (-32768) m s = divideOverflow false { s with draws := s.draws + 1 } := by
  have hdraw : placeQuotient r (-32768) m s =
      (if Config.freeFlag s.draws then storeQuotient r (-32768) m else divideOverflow false)
        { s with draws := s.draws + 1 } := rfl
  rw [hdraw]
  split
  · exact .inl rfl
  · exact .inr rfl

section ready

variable {s : State} {r : Reg} {o : Specifier} (ir : Word) (hr : r.isOdd = false) (h : specReady s o .word = true)
include hr h

theorem divide_of_zero (hd : (readSpec s o .word).value = 0) :
    divide ir r o s = divideOverflow true (readSpec s o .word).after := by
  simp only [divide, hr, Bool.false_eq_true, if_false, bind_apply, readSource_ok h, readReg_apply, hd, if_true]

theorem divide_of_ne_zero {n q m : Int} (hd : (readSpec s o .word).value ≠ 0)
    (hn : (longOf ((readSpec s o .word).after.reg r) ((readSpec s o .word).after.reg (oddOf r))).toInt = n)
    (hq : n.tdiv (readSpec s o .word).value.toInt = q) (hm : n - q * (readSpec s o .word).value.toInt = m) :
    divide ir r o s = placeQuotient r q m (readSpec s o .word).after := by
  subst hn hq hm
  simp only [divide, hr, Bool.false_eq_true, if_false, bind_apply, readSource_ok h, readReg_apply, hd, signed16,
    signed32]
  rfl

end ready

/-! ### ASH and ASHC -/

theorem shiftCount_eq (v : Word) :
    shiftCount v = if v.toNat % 64 < 32 then (v.toNat : Int) % 64 else (v.toNat : Int) % 64 - 64 := by
  have hv : (v.extractLsb' 0 6).toNat = v.toNat % 64 := by rw [toNat_extractLsb']; omega
  rw [shiftCount, BitVec.toInt_eq_toNat_cond, hv]
  split <;> split <;> omega

/-- The flags of a shift: N and Z from the shifted pattern, V and C from `ShiftN` (R313, R314). -/
def shiftNFlags {b : Nat} (y : ShiftState b) : Pattern := ⟨some y.r.msb, some (decide (y.r = 0)), some y.v, some y.c⟩

section ready

variable {s : State} {r : Reg} {o : Specifier} (h : specReady s o .word = true)
include h

theorem exec_ash_ok :
    let x := readSpec s o .word
    let y := shiftN (x.after.reg r) (shiftCount x.value)
    exec (.ash r o) s = .next ((x.after.setReg r y.r).setFlags (shiftNFlags y)) := by
  refine finish_ok ?_
  simp only [shiftArith, bind_apply, readSource_ok h, readReg_apply, writeReg_apply, setFlags_apply, allFlags,
    beq_eq_decide]
  rfl

theorem exec_ashc_ok :
    let x := readSpec s o .word
    let y := shiftN (longOf (x.after.reg r) (x.after.reg (if r.isOdd then r else oddOf r))) (shiftCount x.value)
    exec (.ashc r o) s = .next ((x.after.setPair r y.r).setFlags (shiftNFlags y)) := by
  refine finish_ok ?_
  simp only [shiftArithCombined, bind_apply, readSource_ok h, readReg_apply, writePair_apply, setFlags_apply, allFlags,
    beq_eq_decide]
  rfl

end ready

/-- Settles O39: both meanings, with the count as a number and the pair by the register's parity. -/
theorem arithmeticShifts : Obligations.ArithmeticShifts := by
  refine fun r o => ⟨decodeWord_encodeWord (i := .ash r o) rfl, decodeWord_encodeWord (i := .ashc r o) rfl,
    fun s h => ?_⟩
  intro x cnt
  have hcnt : shiftCount x.value = cnt := shiftCount_eq x.value
  refine ⟨?ash, fun hr => ?odd, fun hr => ?even⟩
  case ash => exact hcnt ▸ exec_ash_ok h
  case odd =>
    have hexec := exec_ashc_ok (r := r) h
    simp only [hr, if_true, setPair_of_odd] at hexec
    exact hcnt ▸ hexec
  case even =>
    have hexec := exec_ashc_ok (r := r) h
    simp only [hr, Bool.false_eq_true, if_false, setPair_of_even] at hexec
    exact hcnt ▸ hexec

/-! ### SOB -/

theorem two_mul_setWidth (nn : BitVec 6) : 2 * nn.setWidth 16 = BitVec.ofNat 16 (2 * nn.toNat) := by
  rw [BitVec.ofNat_mul, BitVec.ofNat_toNat]
  rfl

theorem sub_one_eq_zero_iff (v : Word) : v - 1 = 0 ↔ v.toNat = 1 :=
  sub_eq_zero.trans BitVec.toNat_inj.symm

/-- Settles O41: the register is read again after it is written, so the test is of the decremented value. -/
theorem subtractOneAndBranch : Obligations.SubtractOneAndBranch := by
  refine fun r nn => ⟨decodeWord_encodeWord (i := .sob r nn) rfl, fun s => finish_ok ?_⟩
  have hzero : (s.setReg r (s.reg r - 1)).reg r = 0 ↔ (s.reg r).toNat = 1 := by
    rw [reg_setReg, if_pos rfl, sub_one_eq_zero_iff]
  simp only [subtractOneBranch, bind_apply, readReg_apply, writeReg_apply, hzero, two_mul_setWidth]
  split_ifs
  · rfl
  · rfl

end Sys2Proof.Machine

namespace Sys2Proof.RegisterOperand

open Sys2Proof.Machine Sys2Proof.Claims

/-- Settles O36: the product's words, and the pair by the register's parity. -/
theorem multiply : Obligations.Multiply := by
  refine fun r o => ⟨decodeWord_encodeWord (i := .mul r o) rfl, fun s h => ?_⟩
  intro x p q
  refine ⟨fun hr => (exec_mul_ok h).trans ?_, fun hr => (exec_mul_ok h).trans ?_⟩
  · rw [setPair_of_odd _ _ hr, lowWord_unsigned32]
    rfl
  · rw [setPair_of_even _ _ hr, lowWord_unsigned32, highWord_unsigned32]
    rfl

/-- Settles O37: the quotient and remainder given are the truncated division's, so `placeQuotient` places them. -/
theorem divide : Obligations.Divide := by
  refine fun r o => ⟨decodeWord_encodeWord (i := .div r o) rfl, fun s =>
    ⟨fun hr => finish_fault (congrFun (if_pos hr) s), fun hr h => ?_⟩⟩
  intro x n d overflow stored
  refine ⟨fun hd => ?zero, fun q m hd hn hm hpos hneg => ?nonzero⟩
  case zero =>
    have hdiv := divide_of_zero (encodeWord (.div r o)) hr h (BitVec.toInt_inj.mp hd)
    exact ⟨_, _, finish_ok (hdiv.trans (divideOverflow_apply x.after true))⟩
  case nonzero =>
    have hx : x.value ≠ 0 := fun e => hd (BitVec.toInt_inj.mpr e)
    have hdiv := divide_of_ne_zero (encodeWord (.div r o)) hr h hx rfl (tdiv_eq_of_remainder hd hn hm hpos hneg)
      (sub_eq_of_eq_add' hn)
    refine ⟨fun hq => ?inside, fun hq => ?outside, fun hq => ?edge⟩
    case inside =>
      rw [placeQuotient_of_inside r m hq] at hdiv
      exact finish_ok (hdiv.trans (storeQuotient_apply x.after r q m))
    case outside =>
      rw [placeQuotient_of_outside r m hq] at hdiv
      exact ⟨_, _, finish_ok (hdiv.trans (divideOverflow_apply x.after false))⟩
    case edge =>
      subst hq
      obtain hplace | hplace := placeQuotient_of_edge x.after r m
      · exact .inl (finish_ok ((hdiv.trans hplace).trans (storeQuotient_apply _ _ _ _)))
      · exact .inr ⟨_, _, finish_ok ((hdiv.trans hplace).trans (divideOverflow_apply _ _))⟩

/-- Settles O40: the register is read in the state before the destination is resolved. -/
theorem exclusiveOr : Obligations.ExclusiveOr := by
  refine fun r o => ⟨decodeWord_encodeWord (i := .xor r o) rfl, fun s h => finish_ok ?_⟩
  simp only [Machine.exclusiveOr, bind_apply, readReg_apply, resolve_of_ready h, readOp_of_ready h,
    writeOp_ok _ (canAccess_of_ready h), setFlags_apply, logicFlags, nzFlags_eq_nz (truncTo_word _)]

end Sys2Proof.RegisterOperand
end

section
/-! Frames of MUL, DIV, ASH, ASHC and SOB (44_rss.md R310 to R314, R327): they write registers and flags only. -/

namespace Sys2Proof.Machine

open Sys2Proof.Claims

section pieces

variable {l : List Reg} {q : Word → Word → Prop} {b : Word → Prop} (hr : ∀ x, q x x)
  (ht : ∀ x y z, q x y → q y z → q x z)
include hr ht

theorem keeps_readSource {o : Specifier} (ho : ∀ r ∈ steppedBy o, r ∈ l) : Keeps l q b (readSource o) :=
  (keeps_resolve hr ht o .word ho).bind ht fun op => keeps_readOp hr ht op .word

theorem keeps_writePair {r : Reg} (v : Long) (h : r ∈ l) (hodd : oddOf r ∈ l) : Keeps l q b (writePair r v) := by
  unfold writePair
  split
  · exact keeps_writeReg _ _ hr h
  · exact (keeps_writeReg _ _ hr h).bind ht fun _ => keeps_writeReg _ _ hr hodd

theorem keeps_subtractOneBranch {r : Reg} (nn : BitVec 6) (h7 : Reg.r7 ∈ l) (h : r ∈ l) :
    Keeps l q b (subtractOneBranch r nn) := by
  refine (keeps_readReg _ hr).bind ht fun _ => (keeps_writeReg _ _ hr h).bind ht fun _ =>
    (keeps_readReg _ hr).bind ht fun _ => ?_
  split
  · exact keeps_pure _ hr
  · exact (keeps_readReg _ hr).bind ht fun _ => keeps_writeReg _ _ hr h7

variable (hf : ∀ a x, q x (applyPattern a x))
include hf

theorem keeps_storeQuotient {r : Reg} (n m : Int) (h : r ∈ l) (hodd : oddOf r ∈ l) :
    Keeps l q b (storeQuotient r n m) :=
  (keeps_writeReg _ _ hr h).bind ht fun _ => (keeps_writeReg _ _ hr hodd).bind ht fun _ => keeps_setFlags _ (hf _)

theorem keeps_divideOverflow (byZero : Bool) : Keeps l q b (divideOverflow byZero) :=
  (keeps_drawFlag hr).bind ht fun _ => (keeps_drawFlag hr).bind ht fun _ => keeps_setFlags _ (hf _)

theorem keeps_placeQuotient {r : Reg} (n m : Int) (h : r ∈ l) (hodd : oddOf r ∈ l) :
    Keeps l q b (placeQuotient r n m) := by
  unfold placeQuotient
  split_ifs
  · exact keeps_divideOverflow hr ht hf _
  · refine (keeps_drawFlag hr).bind ht fun k => ?_
    split
    · exact keeps_storeQuotient hr ht hf _ _ h hodd
    · exact keeps_divideOverflow hr ht hf _
  · exact keeps_storeQuotient hr ht hf _ _ h hodd

section source

variable {r : Reg} {o : Specifier} (ho : ∀ r ∈ steppedBy o, r ∈ l) (h : r ∈ l)
include ho h

theorem keeps_shiftArith : Keeps l q b (shiftArith r o) :=
  (keeps_readSource hr ht ho).bind ht fun _ => (keeps_readReg _ hr).bind ht fun _ =>
    (keeps_writeReg _ _ hr h).bind ht fun _ => keeps_setFlags _ (hf _)

variable (hodd : oddOf r ∈ l)
include hodd

theorem keeps_multiply : Keeps l q b (multiply r o) :=
  (keeps_readSource hr ht ho).bind ht fun _ => (keeps_readReg _ hr).bind ht fun _ =>
    (keeps_writePair hr ht _ h hodd).bind ht fun _ => keeps_setFlags _ (hf _)

theorem keeps_shiftArithCombined : Keeps l q b (shiftArithCombined r o) :=
  (keeps_readSource hr ht ho).bind ht fun _ => (keeps_readReg _ hr).bind ht fun _ =>
    (keeps_readReg _ hr).bind ht fun _ => (keeps_writePair hr ht _ h hodd).bind ht fun _ => keeps_setFlags _ (hf _)

theorem keeps_divide (ir : Word) : Keeps l q b (divide ir r o) := by
  unfold divide
  split
  · exact keeps_raise _ hr
  · refine (keeps_readSource hr ht ho).bind ht fun d => (keeps_readReg _ hr).bind ht fun _ =>
      (keeps_readReg _ hr).bind ht fun _ => ?_
    split
    · exact keeps_divideOverflow hr ht hf _
    · exact keeps_placeQuotient hr ht hf _ _ h hodd

end source

end pieces

/-- Settles O52: the frames of the meanings; SOB's pieces leave the PSW. -/
theorem frameOfRegisterResults : Obligations.FrameOfRegisterResults := by
  refine fun s t r o nn => ⟨fun i hi h => ?pair, fun h => ?ash, fun h => ?sob⟩
  case pair =>
    have ho : ∀ p ∈ steppedBy o, p ∈ .r7 :: r :: oddOf r :: steppedBy o := fun _ hp => by simp [hp]
    have hkeeps : ∃ m, exec i s = finish m s ∧ Keeps (.r7 :: r :: oddOf r :: steppedBy o) sameHigh noBytes m := by
      simp only [List.mem_cons, List.not_mem_nil, or_false] at hi
      obtain rfl | rfl | rfl := hi
      · exact ⟨_, rfl, keeps_multiply sameHigh_refl sameHigh_trans sameHigh_applyPattern ho (by simp) (by simp)⟩
      · exact ⟨_, rfl, keeps_divide sameHigh_refl sameHigh_trans sameHigh_applyPattern ho (by simp) (by simp) _⟩
      · exact ⟨_, rfl, keeps_shiftArithCombined sameHigh_refl sameHigh_trans sameHigh_applyPattern ho (by simp)
          (by simp)⟩
    obtain ⟨m, hexec, hm⟩ := hkeeps
    rw [hexec] at h
    exact hm.frame h
  case ash =>
    exact (keeps_shiftArith (b := noBytes) sameHigh_refl sameHigh_trans sameHigh_applyPattern (fun _ hp => by simp [hp])
      (by simp)).frame h
  case sob =>
    exact (keeps_subtractOneBranch (b := noBytes) keepsPsw_refl keepsPsw_trans nn (by simp) (by simp)).frame h

end Sys2Proof.Machine
end

section
/-! MOV and MOVB (45_ssdd.md R341, 40_addressing_modes.md R174), and the SSDD instructions that read both operands
(R342 to R347): each by its word, its access pattern, and its result and flags on values masked to the width. -/

namespace Sys2Proof.Machine

open Sys2Proof.Claims

/-! ### MOV and MOVB -/

theorem specReady_iff {s : State} {o : Specifier} {w : Width} : specReady s o w = true ↔
    resolvable s o = true ∧ canAccess (afterResolve s o w) (operandOf s o w) w = true := Bool.and_eq_true_iff

/-- MOVB's write is the ordinary byte write where the destination is memory (R172, R174). -/
theorem writeOpSext_mem (ea v : Word) : writeOpSext (.mem ea) v = writeOp (.mem ea) .byte v := rfl

/-- Sign extension of a byte held in a word with a zero high byte. -/
theorem sext_lowByte {v : Word} (h : truncTo .byte v = v) :
    sext (lowByte v) = if v.toNat < 128 then v else v + 0o177400 := by
  have hv : v = zext (lowByte v) := h.symm.trans (zext_lowByte v).symm
  have hsext (b : Byte) : sext b = if (zext b).toNat < 128 then zext b else zext b + 0o177400 := by decide +revert
  rw [hsext, ← hv]

/-- Settles O42: both are `moveTo`; the write goes through at a destination whose accesses do, and a register's takes
the sign-extended byte. -/
theorem move : Obligations.Move := by
  refine fun src dst => ⟨decodeWord_encodeWord (i := .mov src dst) rfl, decodeWord_encodeWord (i := .movb src dst) rfl,
    fun s hs hd => ?word, fun s hs hd => ?byte⟩
  case word =>
    obtain ⟨hres, hacc⟩ := specReady_iff.mp hd
    intro x
    rw [← nzFlags_eq_nz (truncTo_word x.value)]
    exact finish_ok (moveTo_ok hs hres (writeOp_ok _ hacc))
  case byte =>
    obtain ⟨hres, hacc⟩ := specReady_iff.mp hd
    intro x q
    have hx : truncTo .byte x.value = x.value := truncTo_readSpec_value s src .byte
    have hq : logicFlags .byte x.value = q := nzFlags_eq_nz hx _ _
    refine ⟨fun hm => ?register, fun hm => ?memory⟩
    case register =>
      have hop : operandOf x.after dst .byte = .reg dst.reg := if_pos hm
      have hstay : afterResolve x.after dst .byte = x.after := by simp only [afterResolve, hm]
      rw [← sext_lowByte hx, ← hq]
      refine finish_ok (moveTo_ok hs hres ?_)
      rw [hop, hstay]
      rfl
    case memory =>
      rw [operandOf_of_ne_register hm] at hacc
      rw [← hq]
      refine finish_ok (moveTo_ok hs hres ?_)
      rw [operandOf_of_ne_register hm, writeOpSext_mem]
      exact writeOp_ok _ hacc

/-! ### Both operands read -/

theorem combine_ok {s : State} {src dst : Specifier} {w : Width} (f : Word → Word → Word)
    (flags : Word → Word → Word → Pattern) (hs : specReady s src w = true)
    (hd : specReady (readSpec s src w).after dst w = true) :
    let a := (readSpec s src w).value
    let y := readSpec (readSpec s src w).after dst w
    combine w src dst f flags s =
      .ok () ((afterWriteOp y.after y.op w (f a y.value)).setFlags (flags a y.value (f a y.value))) := by
  simp only [combine, bind_apply, resolve_of_ready hs, readOp_of_ready hs, resolve_of_ready hd, readOp_of_ready hd,
    writeOp_ok _ (canAccess_of_ready hd), setFlags_apply]

/-- An instruction of the SSDD format (30_encoding.md R113, R114) that runs the piece. -/
def RunsDouble (i : Instr) (code : Word) (m : Exec Unit) : Prop :=
  encodeWord i = code ∧ i.isAlias = false ∧ ∀ s, exec i s = finish m s

theorem RunsDouble.decodeWord {i : Instr} {code : Word} {m : Exec Unit} (h : RunsDouble i code m) :
    decodeWord code = .ok i := by
  obtain ⟨rfl, halias, -⟩ := h
  exact decodeWord_encodeWord halias

theorem RunsDouble.exec_ok {i : Instr} {code : Word} {m : Exec Unit} (h : RunsDouble i code m) {s t : State}
    (ht : m s = .ok () t) : exec i s = .next t := by
  obtain ⟨-, -, hexec⟩ := h
  rw [hexec, finish_ok ht]

/-- An instruction that is `compareOnly` follows the rule if its flags are the rule's on values of the width. -/
theorem comparesOnly_of_runs {name : Width → Specifier → Specifier → Instr} {code : BitVec 3}
    {g flags : Width → Word → Word → Pattern}
    (hrun : ∀ w src dst, RunsDouble (name w src dst) (doubleCode w code src dst) (compareOnly w src dst (g w)))
    (hflags : ∀ w a d, truncTo w a = a → g w a d = flags w a d) : ComparesOnly name code flags := by
  refine fun w src dst => ⟨(hrun w src dst).decodeWord, fun s hs hd => ?_⟩
  rw [(hrun w src dst).exec_ok (compareOnly_ok _ hs hd), hflags _ _ _ (truncTo_readSpec_value s src w)]

/-- An instruction that is `combine` follows the rule if its result is the rule's on values of the width, and its flags
are the rule's on that result. -/
theorem combinesResult_of_runs {name : Specifier → Specifier → Instr} {w flagBit : Width} {code : BitVec 3}
    {f result : Word → Word → Word} {g flags : Word → Word → Word → Pattern}
    (hrun : ∀ src dst, RunsDouble (name src dst) (doubleCode flagBit code src dst) (combine w src dst f g))
    (hresult : ∀ a d, truncTo w a = a → truncTo w d = d → f a d = result a d)
    (hflags : ∀ a d, g a d (f a d) = flags a d (f a d)) : CombinesResult name w flagBit code result flags := by
  refine fun src dst => ⟨(hrun src dst).decodeWord, fun s hs hd => ?_⟩
  rw [(hrun src dst).exec_ok (combine_ok f g hs hd), hflags,
    hresult _ _ (truncTo_readSpec_value s src w) (truncTo_readSpec_value _ dst w)]

/-! ### Results and flags -/

theorem logicFlags_truncTo (w : Width) (v : Word) :
    logicFlags w (truncTo w v) = nz w (truncTo w v) (some false) none := nzFlags_eq_nz (truncTo_truncTo w v) _ _

theorem bisResult_eq_or {w : Width} {a d : Word} (ha : truncTo w a = a) (hd : truncTo w d = d) :
    bisResult w a d = a ||| d := by
  rw [bisResult, truncTo_or, ha, hd]

/-- The library's signed overflow of an addition: the sum is not the sum of the signed readings. -/
theorem saddOverflow_eq_decide {n : Nat} (x y : BitVec n) :
    x.saddOverflow y = decide ((x + y).toInt ≠ x.toInt + y.toInt) := by
  cases h : x.saddOverflow y with
  | false => simp [BitVec.toInt_add_of_not_saddOverflow (x := x) (y := y) (by simp [h])]
  | true =>
    have hle := BitVec.le_toInt (x + y)
    have hlt := BitVec.toInt_lt (x := x + y)
    simp only [BitVec.saddOverflow, Bool.or_eq_true, decide_eq_true_eq] at h
    exact (decide_eq_true (by omega)).symm

/-- The same of a subtraction. -/
theorem ssubOverflow_eq_decide {n : Nat} (x y : BitVec n) :
    x.ssubOverflow y = decide ((x - y).toInt ≠ x.toInt - y.toInt) := by
  cases h : x.ssubOverflow y with
  | false => simp [BitVec.toInt_sub_of_not_ssubOverflow (x := x) (y := y) (by simp [h])]
  | true =>
    have hle := BitVec.le_toInt (x - y)
    have hlt := BitVec.toInt_lt (x := x - y)
    simp only [BitVec.ssubOverflow, Bool.or_eq_true, decide_eq_true_eq] at h
    exact (decide_eq_true (by omega)).symm

/-- The V of R346 is the library's signed overflow of an addition. -/
theorem msb_not_xor_and_xor_add {n : Nat} (hn : 0 < n) (x y : BitVec n) :
    (~~~(x ^^^ y) &&& (x ^^^ (x + y))).msb = x.saddOverflow y := by
  rw [BitVec.msb_and, BitVec.msb_not, BitVec.msb_xor, BitVec.msb_xor, BitVec.saddOverflow_eq, decide_eq_true hn]
  generalize x.msb = a, y.msb = b, (x + y).msb = c
  decide +revert

theorem cmpFlags_cmpResult (w : Width) (a d : Word) : cmpFlags w a d (cmpResult w a d) =
    nz w (cmpResult w a d) (some (decide ((a ^^^ d) &&& (a ^^^ cmpResult w a d) &&& signOf w ≠ 0)))
      (some (decide (a.toNat < d.toNat))) := by
  have hmask : truncTo w (cmpResult w a d) = cmpResult w a d := truncTo_truncTo w (a - d)
  rw [cmpFlags, nzFlags_eq_nz hmask, bne, beq_eq_decide, ← decide_not]

theorem addFlags_add (a d : Word) : addFlags a d (a + d) = nz .word (a + d)
    (some (decide ((a + d).toInt ≠ a.toInt + d.toInt))) (some (decide (2 ^ 16 ≤ a.toNat + d.toNat))) := by
  rw [addFlags, nzFlags_eq_nz (truncTo_word _), and_signOf_ne_zero, msbOf_word, msb_not_xor_and_xor_add (by decide),
    saddOverflow_eq_decide]

theorem subFlags_sub (a d : Word) : subFlags a d (d - a) = nz .word (d - a)
    (some (decide ((d - a).toInt ≠ d.toInt - a.toInt))) (some (decide (d.toNat < a.toNat))) := by
  rw [subFlags, nzFlags_eq_nz (truncTo_word _), and_signOf_ne_zero, msbOf_word, BitVec.xor_comm a d,
    msb_xor_and_xor_sub, ssubOverflow_eq_decide]

/-- Settles O43: CMP and BIT are `compareOnly`, the others `combine`; V of ADD and SUB is the library's signed
overflow. -/
theorem doubleOperandResults : Obligations.DoubleOperandResults := by
  refine ⟨comparesOnly_of_runs ?cmp fun w a d _ => cmpFlags_cmpResult w a d,
    comparesOnly_of_runs ?bit fun w a d ha => nzFlags_eq_nz (truncTo_and_of_truncTo ha d) _ _,
    combinesResult_of_runs (f := bicResult .word) ?bic (fun _ _ _ _ => truncTo_word _) fun _ _ =>
      logicFlags_truncTo _ _,
    combinesResult_of_runs (f := bicResult .byte) ?bicb (fun _ _ _ _ => rfl) fun _ _ => logicFlags_truncTo _ _,
    combinesResult_of_runs (f := bisResult .word) ?bis (fun _ _ => bisResult_eq_or) fun _ _ => logicFlags_truncTo _ _,
    combinesResult_of_runs (f := bisResult .byte) ?bisb (fun _ _ => bisResult_eq_or) fun _ _ => logicFlags_truncTo _ _,
    combinesResult_of_runs ?add (fun _ _ _ _ => rfl) addFlags_add,
    combinesResult_of_runs ?sub (fun _ _ _ _ => rfl) subFlags_sub⟩
  case cmp => exact fun w src dst => ⟨by cases w <;> rfl, by cases w <;> rfl, exec_cmp w src dst⟩
  case bit => exact fun w src dst => ⟨by cases w <;> rfl, by cases w <;> rfl, exec_bit w src dst⟩
  all_goals exact fun src dst => ⟨rfl, rfl, fun _ => rfl⟩

end Sys2Proof.Machine
end

section
/-! Frames of the SSDD instructions that store and of XOR (45_ssdd.md R340, 44_rss.md R326): the destination is resolved
in the state that the source leaves. -/

namespace Sys2Proof.Machine

open Sys2Proof.Claims

/-- The bytes of the width at an operand in memory. -/
def operandBytes (op : Operand) (w : Width) (c : Word) : Prop := ∃ ea, op = .mem ea ∧ c ∈ bytesAt w ea

section pieces

variable {β : Type} {s : State} {l : List Reg} {q : Word → Word → Prop} (hr : ∀ x, q x x)
  (ht : ∀ x y z, q x y → q y z → q x z)
include hr ht

/-- A source read, then a destination resolved and used: the bytes are those the second stores to. -/
theorem keepsAt_source_bind {src dst : Specifier} {w : Width} {f : Word → Operand → Exec β}
    (hs : ∀ r ∈ steppedBy src, r ∈ l) (hd : ∀ r ∈ steppedBy dst, r ∈ l)
    (hf : ∀ v op, (∀ r, op = .reg r → r ∈ namedBy dst) → Keeps l q (operandBytes op w) (f v op)) :
    KeepsAt s l q (storedBySecond s src dst w) (do
      let sop ← resolve src w
      let v ← readOp sop w
      f v (← resolve dst w)) :=
  ((keeps_resolve hr ht src w hs).at s).bind ht fun sop u hu => ((keeps_readOp hr ht sop w).at u).bind ht fun v x hx =>
    (keepsAt_resolve_bind hr ht hd (hf v)).mono_bytes fun _ hc => ⟨sop, u, v, x, hu, hx, hc⟩

omit ht in
/-- MOVB's write of an operand to the bytes that `keepsAt_source_bind` allows. -/
theorem keeps_writeOpSext_operand (op : Operand) (v : Word) (hl : ∀ r, op = .reg r → r ∈ l) :
    Keeps l q (operandBytes op .byte) (writeOpSext op v) :=
  keeps_writeOpSext hr op v hl fun ea hop _ hc => ⟨ea, hop, hc⟩

section double

variable {src dst : Specifier} {w : Width} (hs : ∀ r ∈ steppedBy src, r ∈ l) (hd : ∀ r ∈ steppedBy dst, r ∈ l)
  (hn : ∀ r ∈ namedBy dst, r ∈ l)
include hs hd hn

theorem keepsAt_combine {f : Word → Word → Word} {flags : Word → Word → Word → Pattern}
    (hf : ∀ a d r x, q x (applyPattern (flags a d r) x)) :
    KeepsAt s l q (storedBySecond s src dst w) (combine w src dst f flags) :=
  keepsAt_source_bind hr ht hs hd fun _ op hop => (keeps_readOp hr ht op w).bind ht fun _ =>
    (keeps_writeOp_operand hr ht op w _ fun r e => hn r (hop r e)).bind ht fun _ => keeps_setFlags _ (hf _ _ _)

theorem keepsAt_moveTo {write : Operand → Word → Exec Unit}
    (hw : ∀ op v, (∀ r, op = .reg r → r ∈ l) → Keeps l q (operandBytes op w) (write op v))
    (hf : ∀ v x, q x (applyPattern (logicFlags w v) x)) :
    KeepsAt s l q (storedBySecond s src dst w) (moveTo w src dst write) :=
  keepsAt_source_bind hr ht hs hd fun v op hop => (hw op v fun r e => hn r (hop r e)).bind ht fun _ =>
    keeps_setFlags _ (hf v)

end double

theorem keepsAt_exclusiveOr {r : Reg} {o : Specifier} (ho : ∀ r ∈ steppedBy o, r ∈ l) (hn : ∀ r ∈ namedBy o, r ∈ l)
    (hf : ∀ v x, q x (applyPattern (logicFlags .word v) x)) :
    KeepsAt s l q (storedBy s o .word) (exclusiveOr r o) := by
  refine ((keeps_readReg r hr).at s).bind ht ?_
  rintro _ _ ⟨⟩
  exact keepsAt_resolve_bind hr ht ho fun op hop => (keeps_readOp hr ht op .word).bind ht fun _ =>
    (keeps_writeOp_operand hr ht op .word _ fun r e => hn r (hop r e)).bind ht fun _ => keeps_setFlags _ (hf _)

end pieces

/-! ### The stores -/

/-- The registers that an SSDD instruction may write: the PC, those its modes step, the destination. -/
def doubleRegs (src dst : Specifier) : List Reg := .r7 :: steppedBy src ++ steppedBy dst ++ namedBy dst

/-- From every state the instruction changes no register but those of `doubleRegs`, no byte but those its destination
stores to, and the PSW as `q` allows. -/
def FramesDouble (i : Instr) (src dst : Specifier) (w : Width) (q : Word → Word → Prop) : Prop :=
  ∃ m : Exec Unit, (∀ s, exec i s = finish m s) ∧
    ∀ s, KeepsAt s (doubleRegs src dst) q (storedBySecond s src dst w) m

theorem mem_of_steppedSource {src dst : Specifier} {r : Reg} (h : r ∈ steppedBy src) : r ∈ doubleRegs src dst :=
  List.mem_append_left _ (List.mem_append_left _ (List.mem_cons_of_mem _ h))

theorem mem_of_steppedDest {src dst : Specifier} {r : Reg} (h : r ∈ steppedBy dst) : r ∈ doubleRegs src dst :=
  List.mem_append_left _ (List.mem_append_right _ h)

theorem mem_of_namedDest {src dst : Specifier} {r : Reg} (h : r ∈ namedBy dst) : r ∈ doubleRegs src dst :=
  List.mem_append_right _ h

theorem FramesDouble.frame {i : Instr} {src dst : Specifier} {w : Width} {q : Word → Word → Prop}
    (h : FramesDouble i src dst w q) {s t : State} (ht : exec i s = .next t) :
    keepsRegs s t (doubleRegs src dst) ∧ keepsBytes s t (storedBySecond s src dst w) ∧ q s.psw t.psw ∧
    keepsLaunch s t ∧ keepsRun s t := by
  obtain ⟨m, hexec, hm⟩ := h
  rw [hexec] at ht
  exact (hm s).frame ht

section stores

variable {i : Instr} {src dst : Specifier} {w : Width} {q : Word → Word → Prop} (hr : ∀ x, q x x)
  (ht : ∀ x y z, q x y → q y z → q x z)
include hr ht

theorem framesDouble_of_combine {f : Word → Word → Word} {flags : Word → Word → Word → Pattern}
    (hexec : ∀ s, exec i s = finish (combine w src dst f flags) s)
    (hf : ∀ a d r x, q x (applyPattern (flags a d r) x)) : FramesDouble i src dst w q :=
  ⟨_, hexec, fun _ => keepsAt_combine hr ht (fun _ => mem_of_steppedSource) (fun _ => mem_of_steppedDest)
    (fun _ => mem_of_namedDest) hf⟩

theorem framesDouble_of_moveTo {write : Operand → Word → Exec Unit}
    (hexec : ∀ s, exec i s = finish (moveTo w src dst write) s)
    (hw : ∀ op v, (∀ r, op = .reg r → r ∈ doubleRegs src dst) →
      Keeps (doubleRegs src dst) q (operandBytes op w) (write op v))
    (hf : ∀ v x, q x (applyPattern (logicFlags w v) x)) : FramesDouble i src dst w q :=
  ⟨_, hexec, fun _ => keepsAt_moveTo hr ht (fun _ => mem_of_steppedSource) (fun _ => mem_of_steppedDest)
    (fun _ => mem_of_namedDest) hw hf⟩

end stores

/-- All the stores but ADD and SUB leave C; ADD and SUB leave PSW bits 15-4. -/
theorem framesDouble_doubleStores (src dst : Specifier) : ∀ p ∈ doubleStores,
    FramesDouble (p.1 src dst) src dst p.2 sameHighC ∨
    (p.1 src dst = .add src dst ∨ p.1 src dst = .sub src dst) ∧ FramesDouble (p.1 src dst) src dst p.2 sameHigh := by
  simp only [doubleStores, List.forall_mem_cons, List.not_mem_nil, false_imp_iff, implies_true, and_true]
  refine ⟨?mov, ?movb, ?bic, ?bicb, ?bis, ?bisb, ?add, ?sub⟩
  case mov =>
    exact .inl (framesDouble_of_moveTo sameHighC_refl sameHighC_trans (fun _ => rfl)
      (fun op v => keeps_writeOp_operand sameHighC_refl sameHighC_trans op .word v) fun _ => sameHighC_applyPattern rfl)
  case movb =>
    exact .inl (framesDouble_of_moveTo sameHighC_refl sameHighC_trans (fun _ => rfl)
      (keeps_writeOpSext_operand sameHighC_refl) fun _ => sameHighC_applyPattern rfl)
  case add =>
    exact .inr ⟨.inl trivial, framesDouble_of_combine sameHigh_refl sameHigh_trans (fun _ => rfl)
      fun _ _ _ => sameHigh_applyPattern _⟩
  case sub =>
    exact .inr ⟨.inr trivial, framesDouble_of_combine sameHigh_refl sameHigh_trans (fun _ => rfl)
      fun _ _ _ => sameHigh_applyPattern _⟩
  all_goals
    exact .inl (framesDouble_of_combine sameHighC_refl sameHighC_trans (fun _ => rfl)
      fun _ _ _ => sameHighC_applyPattern rfl)

/-- Settles O51: each store is `moveTo` or `combine`, XOR its own meaning; what each keeps of the PSW its
pattern says. -/
theorem frameOfDoubleOperandStores : Obligations.FrameOfDoubleOperandStores := by
  refine ⟨fun s t src dst f w hf h => ?stores, fun s t r o h => ?xor⟩
  case stores =>
    obtain hm | ⟨hi, hm⟩ := framesDouble_doubleStores src dst _ hf
    · obtain ⟨hregs, hbytes, ⟨hhigh, hc⟩, hlaunch, hrun⟩ := hm.frame h
      exact ⟨hregs, hbytes, hhigh, hlaunch, hrun, fun _ _ => hc⟩
    · obtain ⟨hregs, hbytes, hhigh, hlaunch, hrun⟩ := hm.frame h
      exact ⟨hregs, hbytes, hhigh, hlaunch, hrun, fun hadd hsub => (hi.elim hadd hsub).elim⟩
  case xor =>
    obtain ⟨hregs, hbytes, ⟨hhigh, hc⟩, hlaunch, hrun⟩ :=
      (keepsAt_exclusiveOr sameHighC_refl sameHighC_trans mem_of_stepped mem_of_named
        fun _ => sameHighC_applyPattern rfl).frame h
    exact ⟨hregs, hbytes, hhigh, hlaunch, hrun, hc⟩

end Sys2Proof.Machine
end

section
/-! The condition-code operators (46_condition_codes.md R370 to R373): their codes are written apart from PSW bits 15-4,
which on the whole word is one AND or one OR. -/

namespace Sys2Proof.Machine

theorem setWidth_mask (m : BitVec 4) : m.setWidth 16 = 0#12 ++ m := BitVec.setWidth_eq_append (by decide)

theorem high_append_codes (p : Word) : p.extractLsb' 4 12 ++ p.extractLsb' 0 4 = p :=
  BitVec.extractLsb'_append_extractLsb'

theorem clearCodes_eq_and (m : BitVec 4) (p : Word) : clearCodes m p = p &&& ~~~(m.setWidth 16) :=
  calc clearCodes m p
    _ = (p.extractLsb' 4 12 ++ p.extractLsb' 0 4) &&& (~~~0#12 ++ ~~~m) := by
      rw [BitVec.and_append, BitVec.not_zero, BitVec.and_allOnes, clearCodes]
    _ = p &&& ~~~(m.setWidth 16) := by rw [high_append_codes, setWidth_mask, BitVec.not_append]

theorem setCodes_eq_or (m : BitVec 4) (p : Word) : setCodes m p = p ||| m.setWidth 16 :=
  calc setCodes m p
    _ = (p.extractLsb' 4 12 ++ p.extractLsb' 0 4) ||| (0#12 ++ m) := by
      rw [BitVec.or_append, BitVec.or_zero, setCodes]
    _ = p ||| m.setWidth 16 := by rw [high_append_codes, setWidth_mask]

theorem sameHigh_clearCodes (m : BitVec 4) (p : Word) : sameHigh p (clearCodes m p) := sameHigh_append p _

theorem sameHigh_setCodes (m : BitVec 4) (p : Word) : sameHigh p (setCodes m p) := sameHigh_append p _

/-- R373: all four codes are clear, whatever they were. -/
theorem codes_clearCodes_all (p : Word) : (clearCodes 15 p).extractLsb' 0 4 = 0 :=
  BitVec.extractLsb'_append_eq_right.trans BitVec.and_zero

theorem clearMask_apply (m : BitVec 4) (s : State) : clearMask m s = .ok () { s with psw := clearCodes m s.psw } := rfl

theorem setMask_apply (m : BitVec 4) (s : State) : setMask m s = .ok () { s with psw := setCodes m s.psw } := rfl

theorem finish_clearMask (m : BitVec 4) (s : State) :
    finish (clearMask m) s = .next { s with psw := s.psw &&& ~~~(m.setWidth 16) } := by
  rw [finish_ok (clearMask_apply m s), clearCodes_eq_and]

theorem finish_setMask (m : BitVec 4) (s : State) :
    finish (setMask m) s = .next { s with psw := s.psw ||| m.setWidth 16 } := by
  rw [finish_ok (setMask_apply m s), setCodes_eq_or]

/-- Settles O23: Cx and each spelling of a clear are `clearMask` of a mask, Sx and each spelling of a set `setMask`. -/
theorem conditionCodeOperators : Obligations.ConditionCodeOperators :=
  ⟨fun m s => ⟨decodeWord_encodeWord (i := .cx m) rfl, decodeWord_encodeWord (i := .sx m) rfl, finish_clearMask m s,
      finish_setMask m s⟩,
    fun s => ⟨finish_clearMask 1 s, finish_clearMask 2 s, finish_clearMask 4 s, finish_clearMask 8 s,
      finish_clearMask 15 s, finish_setMask 1 s, finish_setMask 2 s, finish_setMask 4 s, finish_setMask 8 s,
      finish_setMask 15 s, _, _, finish_ok (setMask_apply 15 s), finish_ok (clearMask_apply 15 _),
      codes_clearCodes_all _, sameHigh_trans _ _ _ (sameHigh_setCodes 15 s.psw) (sameHigh_clearCodes 15 _)⟩⟩

end Sys2Proof.Machine
end

section
/-! The words a push leaves on the stack, read back by a pop (00_scope.md R15, 20_memory.md R75 to R79). -/

namespace Sys2Proof.Machine

/-! ### Words of the array -/

theorem arrayRead_word_congr {s t : State} {a : Word} (h₀ : t.byteAt a = s.byteAt a)
    (h₁ : t.byteAt (a + 1) = s.byteAt (a + 1)) : t.arrayRead .word a = s.arrayRead .word a := by
  rw [State.arrayRead, State.arrayRead, h₀, h₁]

theorem routedRead_of_no_reader {s : State} (h : s.devRead = []) (a : Word) : s.routedRead a = false := by
  simp [State.routedRead, h]

theorem routedWrite_of_no_writer {s : State} (h : s.devWrite = []) (a : Word) : s.routedWrite a = false := by
  simp [State.routedWrite, h]

theorem arrayRead_afterWrite_word {s : State} (a v : Word) (hm : s.mem.wf = true) (hw : s.devWrite = []) :
    (afterWrite s .word a v).arrayRead .word a = v := by
  rw [afterWrite_array (routedWrite_of_no_writer hw a), arrayRead_arrayWrite_word a v hm]

/-- A word write leaves the word above it alone. -/
theorem arrayRead_afterWrite_above (s : State) (a v : Word) :
    (afterWrite s .word a v).arrayRead .word (a + 2) = s.arrayRead .word (a + 2) := by
  refine arrayRead_word_congr (byteAt_afterWrite_other _ _ _ _ _ ?_) (byteAt_afterWrite_other _ _ _ _ _ ?_) <;>
    simp only [bytesAt, List.mem_cons, List.not_mem_nil, or_false, not_or] <;> constructor <;> bv_omega

/-! ### The PSW apart -/

theorem reg_setPsw (s : State) (p : Word) (r : Reg) : ({ s with psw := p } : State).reg r = s.reg r := rfl

theorem arrayRead_setPsw (s : State) (p : Word) (w : Width) (a : Word) :
    ({ s with psw := p } : State).arrayRead w a = s.arrayRead w a := by
  cases w <;> rfl

/-! ### The stack -/

theorem sub_two_sub_two (a : Word) : a - 2 - 2 = a - 4 := sub_sub _ _ _

@[simp] theorem reg_afterPush (s : State) (v : Word) (r : Reg) :
    (afterPush s v).reg r = if r = .r6 then s.reg .r6 - 2 else s.reg r := by
  simp [afterPush]

@[simp] theorem busFree_afterPush (s : State) (v : Word) : busFree (afterPush s v) = busFree s := by
  simp [afterPush]

@[simp] theorem devWrite_afterPush (s : State) (v : Word) : (afterPush s v).devWrite = s.devWrite := by
  simp [afterPush]

theorem afterPush_wf {s : State} (v : Word) (h : s.mem.wf = true) : (afterPush s v).mem.wf = true :=
  afterWrite_wf _ _ _ _ h

theorem stackReady_afterPush {s : State} (v : Word) (h : stackReady s = true) : stackReady (afterPush s v) = true := by
  rw [stackReady_iff, busFree_afterPush, reg_afterPush, if_pos rfl, isOddAddr_sub_two, ← stackReady_iff]
  exact h

/-- The word pushed is the word at the SP that the push leaves. -/
theorem arrayRead_afterPush_top {s : State} (v : Word) (hm : s.mem.wf = true) (hw : s.devWrite = []) :
    (afterPush s v).arrayRead .word (s.reg .r6 - 2) = v :=
  arrayRead_afterWrite_word _ v hm hw

/-- A push leaves the word at the SP it begins with alone. -/
theorem arrayRead_afterPush_below (s : State) (v : Word) :
    (afterPush s v).arrayRead .word (s.reg .r6) = s.arrayRead .word (s.reg .r6) := by
  have h := arrayRead_afterWrite_above (s.setReg .r6 (s.reg .r6 - 2)) (s.reg .r6 - 2) v
  rwa [sub_add_cancel, arrayRead_setReg] at h

theorem popValue_of_no_reader {s : State} (h : s.devRead = []) : popValue s = s.arrayRead .word (s.reg .r6) :=
  busValue_array (routedRead_of_no_reader h _)

end Sys2Proof.Machine
end

section
/-! The traps BPT and IOT: their entry through a vector, and the return that undoes it (60_exceptions.md R433, R435,
42_no_operand.md R233, R234). -/

namespace Sys2Proof.Machine

/-! ### Trap entry -/

/-- The state of `trapEntry` after its two pushes: the PSW at SP - 2, the PC at SP - 4 (R433). -/
def afterTrapPushes (s : State) : State := afterPush (afterPush s s.psw) (s.reg .r7)

/-- The state of `trapEntry` once the PC is loaded from the vector (R433). -/
def afterVectorPc (s : State) (v : Word) : State :=
  (afterRead (afterTrapPushes s) .word v).setReg .r7 (busValue (afterTrapPushes s) .word v)

/-- The state `trapEntry` leaves: the PSW loaded from the word after the vector (R433). -/
def afterTrapEntry (s : State) (v : Word) : State :=
  { afterRead (afterVectorPc s v) .word (v + 2) with psw := busValue (afterVectorPc s v) .word (v + 2) }

theorem trapEntry_ok {s : State} {v : Word} (h : stackReady s = true) (hv : isOddAddr v = false) :
    trapEntry v s = .ok () (afterTrapEntry s v) := by
  have hv' : isOddAddr (v + 2) = false := by rwa [isOddAddr_add_two]
  have hpc : (afterPush s s.psw).reg .r7 = s.reg .r7 := by simp
  have hb : busFree (afterTrapPushes s) = true := by simpa [afterTrapPushes] using (stackReady_iff.mp h).1
  have hb' : busFree (afterVectorPc s v) = true := by simpa [afterVectorPc] using hb
  have hpushes : afterPush (afterPush s s.psw) (s.reg .r7) = afterTrapPushes s := rfl
  have hload : (afterRead (afterTrapPushes s) .word v).setReg .r7 (busValue (afterTrapPushes s) .word v) =
      afterVectorPc s v := rfl
  simp only [trapEntry, bind_apply, readPsw_apply, push_ok _ h, readReg_apply, hpc,
    push_ok _ (stackReady_afterPush _ h), hpushes, memRead_ok (aligned_word hv) hb, writeReg_apply, hload,
    memRead_ok (aligned_word hv') hb', writePsw_apply, afterTrapEntry]

theorem trapEntry_odd {s : State} (v : Word) (h : isOddAddr (s.reg .r6) = true) :
    trapEntry v s = .error (.fault (.busFault .oddAddress (s.reg .r6 - 2))) (s.setReg .r6 (s.reg .r6 - 2)) := by
  simp only [trapEntry, bind_apply, readPsw_apply, push_odd _ h]

/-- The second push is at SP - 4. -/
theorem afterTrapPushes_eq (s : State) :
    afterTrapPushes s =
      afterWrite ((afterPush s s.psw).setReg .r6 (s.reg .r6 - 4)) .word (s.reg .r6 - 4) (s.reg .r7) := by
  rw [afterTrapPushes, afterPush, reg_afterPush, if_pos rfl, sub_two_sub_two]

/-- Settles O26: BPT and IOT are `trapEntry` of their vectors, which are even. -/
theorem trapsEnterThroughTheirVectors : Obligations.TrapsEnterThroughTheirVectors := by
  refine ⟨decodeWord_encodeWord (i := .bpt) rfl, decodeWord_encodeWord (i := .iot) rfl, fun s i v hi => ?_⟩
  have hexec : exec i s = finish (trapEntry v) s := by rcases hi with ⟨rfl, rfl⟩ | ⟨rfl, rfl⟩ <;> rfl
  have hv : isOddAddr v = false := by rcases hi with ⟨-, rfl⟩ | ⟨-, rfl⟩ <;> rfl
  refine ⟨fun he hb => ?_, fun ho => by rw [hexec, finish_fault (trapEntry_odd v ho)]⟩
  rw [hexec, finish_ok (trapEntry_ok (stackReady_iff.mpr ⟨hb, he⟩) hv), afterTrapEntry, afterVectorPc,
    afterTrapPushes_eq]
  rfl

/-! ### A trap and its return -/

theorem reg_r6_afterTrapEntry (s : State) (v : Word) : (afterTrapEntry s v).reg .r6 = s.reg .r6 - 4 := by
  rw [afterTrapEntry, reg_setPsw]
  simp [afterVectorPc, afterTrapPushes_eq]

/-- The loads from the vector change no byte. -/
theorem arrayRead_afterTrapEntry (s : State) (v a : Word) :
    (afterTrapEntry s v).arrayRead .word a = (afterTrapPushes s).arrayRead .word a := by
  rw [afterTrapEntry, arrayRead_setPsw]
  simp [afterVectorPc]

/-- The two words a trap stacks: the PC at the new SP, the PSW above it (R433). -/
theorem stacked_afterTrapEntry {s : State} (v : Word) (hm : s.mem.wf = true) (hw : s.devWrite = []) :
    (afterTrapEntry s v).arrayRead .word (s.reg .r6 - 4) = s.reg .r7 ∧
    (afterTrapEntry s v).arrayRead .word (s.reg .r6 - 4 + 2) = s.psw := by
  have hsp : (afterPush s s.psw).reg .r6 = s.reg .r6 - 2 := by simp
  have hpc : s.reg .r6 - 4 = (afterPush s s.psw).reg .r6 - 2 := by rw [hsp, sub_two_sub_two]
  rw [arrayRead_afterTrapEntry, arrayRead_afterTrapEntry]
  constructor
  · rw [hpc]
    exact arrayRead_afterPush_top _ (afterPush_wf _ hm) (by simpa using hw)
  · rw [hpc, sub_add_cancel, afterTrapPushes, arrayRead_afterPush_below, hsp]
    exact arrayRead_afterPush_top _ hm hw

/-- What a return from a trap loads where nothing is routed: the PC from the top of the stack, the PSW from above it. -/
theorem trapReturn_loads {u : State} (hr : u.devRead = []) (h : stackReady u = true) :
    ∃ x, trapReturn u = .ok () x ∧ x.reg .r7 = u.arrayRead .word (u.reg .r6) ∧
      x.psw = u.arrayRead .word (u.reg .r6 + 2) ∧ x.reg .r6 = u.reg .r6 + 4 := by
  have hsp : u.reg .r6 + 2 + 2 = u.reg .r6 + 4 := add_assoc _ _ _
  have hr' : (afterPopPc u).devRead = [] := by simpa [afterPopPc, afterPop] using hr
  refine ⟨_, trapReturn_ok h, ?_, ?_, ?_⟩
  · rw [reg_setPsw, ← popValue_of_no_reader hr]
    simp [afterPop, afterPopPc]
  · change popValue (afterPopPc u) = _
    rw [popValue_of_no_reader hr', reg_r6_afterPopPc]
    simp [afterPopPc, afterPop]
  · rw [reg_setPsw, afterPop, reg_setReg, if_pos rfl, reg_r6_afterPopPc, hsp]

/-- Settles O28: the return loads the two words the trap stacked, and moves SP by the 4 bytes they take. -/
theorem trapThenReturnRestores : Obligations.TrapThenReturnRestores := by
  intro s t u i j hi hj hm _ hw hb he ht hur hub husp hubytes
  obtain ⟨v, rfl⟩ : ∃ v, t = afterTrapEntry s v := by
    have hs : stackReady s = true := stackReady_iff.mpr ⟨hb, he⟩
    rcases hi with rfl | rfl <;>
      exact ⟨_, Host.Outcome.next.inj (ht.symm.trans (finish_ok (trapEntry_ok hs rfl)))⟩
  have hsp := reg_r6_afterTrapEntry s v
  rw [hsp] at husp hubytes
  have hready : stackReady u = true :=
    stackReady_iff.mpr ⟨hub, by rwa [husp, ← sub_two_sub_two, isOddAddr_sub_two, isOddAddr_sub_two]⟩
  have hstacked (k : Word) (hk : k.toNat < 3) :
      u.arrayRead .word (s.reg .r6 - 4 + k) = (afterTrapEntry s v).arrayRead .word (s.reg .r6 - 4 + k) := by
    refine arrayRead_word_congr (hubytes k (by omega)) ?_
    rw [add_assoc]
    exact hubytes (k + 1) (by bv_omega)
  obtain ⟨hpc, hpsw⟩ := stacked_afterTrapEntry v hm hw
  obtain ⟨x, hx, hx7, hxp, hx6⟩ := trapReturn_loads hur hready
  refine ⟨x, (exec_trapReturn hj u).trans (finish_ok hx), ?_, ?_, ?_⟩
  · have h0 := hstacked 0 (by decide)
    rw [add_zero] at h0
    rw [hx7, husp, h0, hpc]
  · rw [hxp, husp, hstacked 2 (by decide), hpsw]
  · rw [hx6, husp, sub_add_cancel]

end Sys2Proof.Machine
end

section
/-! JSR and RTS (47_other.md R380 to R382). -/

namespace Sys2Proof.Machine

/-! ### JSR -/

/-- The state JSR leaves: `u` is the state its target's resolution left, `t` the target (R380). -/
def afterCall (u : State) (r : Reg) (t : Word) : State :=
  ((afterPush u (u.reg r)).setReg r (u.reg .r7)).setReg .r7 t

theorem jumpSubroutine_ok {s : State} (r : Reg) {o : Specifier} (hm : o.mode ≠ .register) (hres : resolvable s o = true)
    (he : isOddAddr ((afterResolve s o .word).reg .r6) = false) :
    jumpSubroutine r o s = .ok () (afterCall (afterResolve s o .word) r (effAddr s o .word)) := by
  have hs : stackReady (afterResolve s o .word) = true :=
    stackReady_iff.mpr ⟨by simpa using busFree_of_resolvable hres, he⟩
  have hpc : (afterPush (afterResolve s o .word) ((afterResolve s o .word).reg r)).reg .r7 =
      (afterResolve s o .word).reg .r7 := by simp
  simp only [jumpSubroutine, bind_apply, resolveJump_ok hm hres, readReg_apply, push_ok _ hs, hpc, writeReg_apply,
    afterCall]

theorem jumpSubroutine_odd {s : State} (r : Reg) {o : Specifier} (hm : o.mode ≠ .register)
    (hres : resolvable s o = true) (ho : isOddAddr ((afterResolve s o .word).reg .r6) = true) :
    jumpSubroutine r o s = .error (.fault (.busFault .oddAddress ((afterResolve s o .word).reg .r6 - 2)))
      ((afterResolve s o .word).setReg .r6 ((afterResolve s o .word).reg .r6 - 2)) := by
  simp only [jumpSubroutine, bind_apply, resolveJump_ok hm hres, readReg_apply, push_odd _ ho]

/-- Settles O46: the push goes through or raises by the SP that resolution leaves. -/
theorem jumpToSubroutine : Obligations.JumpToSubroutine := fun r o =>
  ⟨decodeWord_encodeWord (i := .jsr r o) rfl, fun _ hm hres =>
    ⟨fun he => finish_ok (jumpSubroutine_ok r hm hres he), fun ho => finish_fault (jumpSubroutine_odd r hm hres ho)⟩⟩

/-! ### RTS -/

theorem returnSubroutine_ok {s : State} (r : Reg) (h : stackReady s = true) :
    returnSubroutine r s = .ok () (((afterRead (s.setReg .r7 (s.reg r)) .word (s.reg .r6)).setReg .r6
      (s.reg .r6 + 2)).setReg r (busValue s .word (s.reg .r6))) := by
  have hs : stackReady (s.setReg .r7 (s.reg r)) = true := by simpa [stackReady_iff] using h
  have hsp : (s.setReg .r7 (s.reg r)).reg .r6 = s.reg .r6 := by simp
  simp only [returnSubroutine, bind_apply, readReg_apply, writeReg_apply, pop_ok hs, afterPop, popValue, hsp,
    busValue_setReg]

theorem returnSubroutine_odd {s : State} (r : Reg) (h : isOddAddr (s.reg .r6) = true) :
    returnSubroutine r s =
      .error (.fault (.busFault .oddAddress (s.reg .r6))) (s.setReg .r7 (s.reg r)) := by
  have hsp : (s.setReg .r7 (s.reg r)).reg .r6 = s.reg .r6 := by simp
  have ho : isOddAddr ((s.setReg .r7 (s.reg r)).reg .r6) = true := by rwa [hsp]
  simp only [returnSubroutine, bind_apply, readReg_apply, writeReg_apply, pop_odd ho, hsp]

/-- Settles O47: the pop goes through or raises by SP, which the write of the PC leaves alone. -/
theorem returnFromSubroutine : Obligations.ReturnFromSubroutine := fun r =>
  ⟨decodeWord_encodeWord (i := .rts r) rfl, fun _ =>
    ⟨fun he hb => finish_ok (returnSubroutine_ok r (stackReady_iff.mpr ⟨hb, he⟩)),
      fun ho => finish_fault (returnSubroutine_odd r ho)⟩⟩

/-! ### A call and its return -/

theorem reg_afterResolve_of_not_stepped (s : State) {o : Specifier} (w : Width) {r : Reg} (h : r ∉ steppedBy o) :
    (afterResolve s o w).reg r = s.reg r := by
  obtain ⟨m, q⟩ := o
  cases m <;> simp only [steppedBy, List.mem_singleton] at h <;> simp [afterResolve, h]

theorem reg_r7_afterResolve {s : State} {o : Specifier} (w : Width) (h : resolvable s o = true)
    (hdec : o.reg = .r7 → o.mode ≠ .autoDec ∧ o.mode ≠ .autoDecDeferred) :
    (afterResolve s o w).reg .r7 = s.reg .r7 + BitVec.ofNat 16 (2 * o.extensionWords) := by
  obtain ⟨_, _, ht, hpc⟩ := resolutionAdvancesThePcByItsExtensionWords s o w h hdec
  rw [resolve_ok w h] at ht
  cases ht
  exact hpc

/-- What JSR leaves in SP, in a link register that is neither SP nor PC, and at the top of the stack (R380). -/
theorem afterCall_stacks {u : State} {r : Reg} (a : Word) (h6 : r ≠ .r6) (h7 : r ≠ .r7) (hm : u.mem.wf = true)
    (hw : u.devWrite = []) :
    (afterCall u r a).reg .r6 = u.reg .r6 - 2 ∧ (afterCall u r a).reg r = u.reg .r7 ∧
      (afterCall u r a).arrayRead .word (u.reg .r6 - 2) = u.reg r := by
  refine ⟨by simp [afterCall, Ne.symm h6], by simp [afterCall, h7], ?_⟩
  rw [afterCall, arrayRead_setReg, arrayRead_setReg, arrayRead_afterPush_top _ hm hw]

/-- Settles O48: JSR leaves the return address in the link register and the old link register at the top of the stack,
from where RTS takes them. -/
theorem callThenReturnRestores : Obligations.CallThenReturnRestores := by
  intro s t u r o h6 h7 hm hr hsp hdec hmem hw hres he ht hur hub husp hulink hubyte₀ hubyte₁
  have hsp' := reg_afterResolve_of_not_stepped s .word hsp
  obtain rfl : t = afterCall (afterResolve s o .word) r (effAddr s o .word) :=
    Host.Outcome.next.inj (ht.symm.trans (finish_ok (jumpSubroutine_ok r hm hres (hsp'.symm ▸ he))))
  obtain ⟨ht6, htlink, httop⟩ := afterCall_stacks (u := afterResolve s o .word) (effAddr s o .word) h6 h7
    (by simpa using hmem) (by simpa using hw)
  have hutop := arrayRead_word_congr hubyte₀ hubyte₁
  rw [ht6, hsp'] at husp hutop
  rw [hsp'] at httop
  have hready : stackReady u = true := stackReady_iff.mpr ⟨hub, by rwa [husp, isOddAddr_sub_two]⟩
  refine ⟨_, finish_ok (returnSubroutine_ok r hready), ?_, ?_, ?_⟩
  · rw [← reg_r7_afterResolve .word hres hdec, ← htlink, ← hulink]
    simp [Ne.symm h7]
  · simp [Ne.symm h6, husp]
  · rw [reg_setReg, if_pos rfl, busValue_array (routedRead_of_no_reader hur _), husp, hutop, httop,
      reg_afterResolve_of_not_stepped s .word hr]

end Sys2Proof.Machine
end

section
/-! The driver's cycle around an instruction (48_cpu_driver.md R400 to R409). -/

namespace Sys2Proof.Machine

/-! ### The start of a cycle -/

@[simp] theorem reg_beginCycle (s : State) (r : Reg) : (beginCycle s).reg r = s.reg r := by
  rw [beginCycle_eq]; rfl

@[simp] theorem busFree_beginCycle (s : State) : busFree (beginCycle s) = busFree s := by
  rw [beginCycle_eq]; rfl

@[simp] theorem byteAt_beginCycle (s : State) (a : Word) : (beginCycle s).byteAt a = s.byteAt a := by
  rw [beginCycle_eq]; rfl

@[simp] theorem routedRead_beginCycle (s : State) (a : Word) : (beginCycle s).routedRead a = s.routedRead a := by
  rw [beginCycle_eq]; rfl

@[simp] theorem fetchReady_beginCycle (s : State) : fetchReady (beginCycle s) = fetchReady s := by
  simp [fetchReady]

theorem launchRefusal_of_legal {s : State} (h : launchLegal s = true) : launchRefusal s = none := of_decide_eq_true h

/-- A core that a legal launch started and no fault stopped takes a cycle (R400). -/
theorem step_runs {s : State} (hl : launchLegal s = true) (hf : faultStopped s = false) :
    step s = runCycle (beginCycle s) := by
  simp [step, launchRefusal_of_legal hl, hf]

/-! ### The fetch -/

theorem fetchInstruction_ready {s : State} (h : fetchReady s = true) :
    fetchInstruction s = .ok (s.reg .r7, fetchValue s) (afterFetch s) := by
  simp only [fetchInstruction, bind_apply, readReg_apply, fetchWord_ok h, pure_apply]

theorem fetchInstruction_odd {s : State} (h : isOddAddr (s.reg .r7) = true) :
    fetchInstruction s = .error (.fault (.busFault .oddAddress (s.reg .r7))) s := by
  simp only [fetchInstruction, bind_apply, readReg_apply, fetchWord_odd h]

theorem decodeWord_of_unclaimed {w : Word} (h : classify w = none) : decodeWord w = .error (.unknownOpcode w) := by
  simp only [decodeWord, h]

/-! ### The cycle -/

theorem runCycle_decoded {s : State} {i : Instr} (h : fetchReady s = true) (hi : decodeWord (fetchValue s) = .ok i) :
    runCycle s = afterInstruction (s.reg .r7) (exec i (afterFetch s)) := by
  simp only [runCycle, fetchInstruction_ready h, hi]

theorem runCycle_unclaimed {s : State} (h : fetchReady s = true) (hn : classify (fetchValue s) = none) :
    runCycle s = .next (unknownOpcode (fetchValue s) (s.reg .r7) (afterFetch s)) := by
  simp only [runCycle, fetchInstruction_ready h, decodeWord_of_unclaimed hn]

theorem runCycle_odd {s : State} (h : isOddAddr (s.reg .r7) = true) :
    runCycle s = .next (s.stop (.fault (.busFault .oddAddress (s.reg .r7)))) := by
  simp only [runCycle, fetchInstruction_odd h]

/-- Settles O57: the cycle runs what the fetched word decodes to, and `afterInstruction` is the progress check. -/
theorem stepRunsTheDecodedInstruction : Obligations.StepRunsTheDecodedInstruction := by
  intro s i hl hf hr
  dsimp only
  intro hi
  refine ⟨?_, fun hn => ?_⟩
  · rw [step_runs hl hf, runCycle_decoded (by simpa using hr) hi, reg_beginCycle]
    cases exec i (afterFetch (beginCycle s)) <;> rfl
  · have hn' : (beginCycle s).routedRead (s.reg .r7) = false := by simpa using hn
    rw [fetchValue, afterFetch, reg_beginCycle, busValue_array hn', afterRead_array hn', State.arrayRead, wordOfBytes,
      byteAt_beginCycle, byteAt_beginCycle]
    exact ⟨rfl, rfl⟩

/-- Settles O58: the cycle's two stops before an instruction is found. -/
theorem unclaimedWordsAndOddPcsStop : Obligations.UnclaimedWordsAndOddPcsStop := by
  intro s hl hf hb
  refine ⟨fun he hn => ?_, fun ho => ?_⟩
  · have hr : fetchReady (beginCycle s) = true := by simp [fetchReady, hb, he]
    rw [step_runs hl hf, runCycle_unclaimed hr hn, reg_beginCycle]
    rfl
  · rw [step_runs hl hf, runCycle_odd (by simpa using ho), reg_beginCycle]
    rfl

end Sys2Proof.Machine
end

section
/-! Stops and the Run Flag (48_cpu_driver.md R406, R410 to R414). -/

namespace Sys2Proof.Machine

theorem faultStopped_of_fault {s : State} {f : Fault} (h : s.execState = .stopped (.fault f)) :
    faultStopped s = true := by
  simp only [faultStopped, h]

/-- R412: `set_run(true)` does not leave a fault stop. -/
theorem resume_of_fault {s : State} {f : Fault} (h : s.execState = .stopped (.fault f)) : resume s = s := by
  simp only [resume, h]

/-- R412: a run of a core stopped by a fault changes nothing, its Run Flag clear or, by the host, set. -/
theorem runLimit_of_fault {s : State} {f : Fault} (hl : launchRefusal s = none)
    (h : s.execState = .stopped (.fault f)) (n : Nat) : runLimit n s = .next s := by
  cases n with
  | zero => rfl
  | succ n =>
    have hc : continues s = false := by simp [continues, h]
    simp [runLimit_succ, step_faultStopped hl (faultStopped_of_fault h), hc]

/-- R411: HALT and WAIT stops end when the core is resumed. -/
theorem resume_of_halt_or_wait {s : State} (h : s.execState = .stopped .halt ∨ s.execState = .stopped .wait) :
    resume s = { s with execState := .ready } := by
  rcases h with h | h <;> simp only [resume, h]

theorem faultStopped_of_halt_or_wait {s : State} (h : s.execState = .stopped .halt ∨ s.execState = .stopped .wait) :
    faultStopped s = false := by
  rcases h with h | h <;> simp only [faultStopped, h]

/-- Settles O59: what each stop makes of `resume` and of a cycle, and a run whose second slot clears the Run Flag. -/
theorem faultStopsAreStickyOthersResume : Obligations.FaultStopsAreStickyOthersResume := by
  intro s hl
  have hl' := launchRefusal_of_legal hl
  refine ⟨fun f hf => ⟨step_faultStopped hl' (faultStopped_of_fault hf), ?_, runLimit_of_fault hl' hf⟩,
    fun h => ⟨?_, ?_⟩, fun t calls hr hs hc => ?_⟩
  · rw [setRun_true, resume_of_fault hf]
  · rw [step_runs hl (faultStopped_of_halt_or_wait h), step_runs (s := { s with execState := .ready }) hl rfl,
      beginCycle, resume_of_halt_or_wait h]
    rfl
  · rw [setRun_true, resume_of_halt_or_wait h]
  · rw [runWith_cycle (calls := []) hr hs, if_pos hc, runWith_cleared rfl]
    rfl

end Sys2Proof.Machine
end

section
/-! The loader (70_reset_and_hazards.md R471): the words of an image one after the other, each two bytes above the
last. -/

namespace Sys2Proof.Machine

open Sys2Proof.Claims

/-- The state after the words of an image are written from an address on, none of them routed (R471). -/
def afterLoad : State → List Word → Word → State
  | s, [], _ => s
  | s, v :: rest, a => afterLoad (s.arrayWrite .word a v) rest (a + 2)

theorem afterLoad_eq (ws : List Word) (s : State) (a : Word) :
    afterLoad s ws a = { s with mem := (afterLoad s ws a).mem } := by
  induction ws generalizing s a with
  | nil => rfl
  | cons v rest ih =>
    rw [afterLoad, ih, arrayWrite_eq]

theorem afterLoad_wf (ws : List Word) {s : State} (a : Word) (h : s.mem.wf = true) :
    (afterLoad s ws a).mem.wf = true := by
  induction ws generalizing s a with
  | nil => exact h
  | cons v rest ih => exact ih _ (arrayWrite_wf s .word a v h)

theorem loadFrom_ok {ws : List Word} {s : State} {a : Word} (ha : isOddAddr a = false) (hb : busFree s = true)
    (hw : s.devWrite = []) : loadFrom ws a s = .ok () (afterLoad s ws a) := by
  induction ws generalizing s a with
  | nil => rfl
  | cons v rest ih =>
    have ha' : isOddAddr (a + 2) = false := by rwa [isOddAddr_add_two]
    rw [loadFrom, bind_apply, memWrite_ok (aligned_word ha) hb, afterWrite_array (routedWrite_of_no_writer hw a)]
    exact ih ha' (by simpa using hb) (by simpa using hw)

/-- The bytes of an image lie at the first `2 * ws.length` offsets from its base; every other byte is left alone. -/
theorem byteAt_afterLoad_other {ws : List Word} {s : State} {a c : Word} (h : 2 * ws.length ≤ (c - a).toNat) :
    (afterLoad s ws a).byteAt c = s.byteAt c := by
  induction ws generalizing s a with
  | nil => rfl
  | cons v rest ih =>
    rw [List.length_cons] at h
    rw [afterLoad, ih (by bv_omega)]
    refine byteAt_arrayWrite_other _ _ _ _ _ ?_
    simp only [bytesAt, List.mem_cons, List.not_mem_nil, or_false, not_or]
    constructor <;> bv_omega

/-- Each word of an image that fits the address space is read back: the words after it lie at other addresses. -/
theorem arrayRead_afterLoad {ws : List Word} {s : State} {a : Word} (hm : s.mem.wf = true)
    (hlen : 2 * ws.length ≤ 65536) (k : Nat) (hk : k < ws.length) :
    (afterLoad s ws a).arrayRead .word (a + BitVec.ofNat 16 (2 * k)) = ws[k] := by
  induction ws generalizing s a k with
  | nil => cases hk
  | cons v rest ih =>
    rw [List.length_cons] at hlen
    cases k with
    | zero =>
      have hrest : (afterLoad (s.arrayWrite .word a v) rest (a + 2)).arrayRead .word a =
          (s.arrayWrite .word a v).arrayRead .word a :=
        arrayRead_word_congr (byteAt_afterLoad_other (by bv_omega)) (byteAt_afterLoad_other (by bv_omega))
      simpa [afterLoad] using hrest.trans (arrayRead_arrayWrite_word a v hm)
    | succ k =>
      have haddr : a + BitVec.ofNat 16 (2 * (k + 1)) = a + 2 + BitVec.ofNat 16 (2 * k) := by
        rw [Nat.mul_add, BitVec.ofNat_add, add_assoc, add_comm (2 : Word)]
        rfl
      rw [haddr]
      exact ih (arrayWrite_wf s .word a v hm) (by omega) k (by simpa using hk)

/-- Settles O60: the image is written by `loadFrom`, then the PC. -/
theorem loaderPlacesTheImage : Obligations.LoaderPlacesTheImage := by
  intro s ws base hmay
  refine ⟨fun h => ?_, fun he hfit hb hw hm => ?_⟩
  · rcases h with h | h <;> simp [loadWords, hmay, h]
  have hload : loadWords ws base s = .next ((afterLoad s ws base).setReg .r7 base) := by
    have hlegal : (isOddAddr base || decide (65536 < base.toNat + 2 * ws.length)) = false := by simp [he, hfit]
    rw [loadWords, if_pos hmay, hlegal]
    refine finish_ok ?_
    rw [bind_apply, loadFrom_ok he hb hw]
    rfl
  refine ⟨_, hload, by simp, by simp, fun r hr => ?_, ?_, afterLoad_wf ws base hm, fun k hk => ?_, fun c hc => ?_⟩
  · rw [List.mem_singleton] at hr
    rw [reg_setReg, written_setReg, if_neg hr, decide_eq_false hr, Bool.false_or, afterLoad_eq]
    exact ⟨rfl, rfl⟩
  · rw [setReg_psw, afterLoad_eq]
  · rw [arrayRead_setReg]
    exact arrayRead_afterLoad hm (by omega) k hk
  · rw [byteAt_setReg]
    exact byteAt_afterLoad_other (by bv_omega)

end Sys2Proof.Machine
end

section
/-! Reset (70_reset_and_hazards.md R470), and the words of 95_test_vectors.md. -/

namespace Sys2Proof.Machine

open Sys2Proof.Claims

theorem written_launch (p : Params) (m : Memory) (rd wr : List Word) (r : Reg) :
    (State.launch p m rd wr).written r = false := by
  cases r <;> rfl

theorem holdsResetValues_launch (p : Params) (m : Memory) (rd wr : List Word) :
    HoldsResetValues (State.launch p m rd wr) p m rd wr :=
  ⟨written_launch p m rd wr, rfl, rfl, rfl, rfl, rfl, rfl, rfl, rfl⟩

/-- Settles O6: a later reset is the launch of the same core, in every field of the claim. -/
theorem resetLeavesTheSpecValues : Obligations.ResetLeavesTheSpecValues := fun p m rd wr old =>
  ⟨holdsResetValues_launch p m rd wr, holdsResetValues_launch old.params m old.devRead old.devWrite⟩

/-- Settles O7: the launch is legal because no handler is registered, and each other part is a field of the launch. -/
theorem resetMeetsTheInvariant : Obligations.ResetMeetsTheInvariant := ⟨reset_mem_wf, rfl, rfl, rfl⟩

/-- Settles O5: each word is the encoding of what it stands for; no family claims the last. -/
theorem exampleWordsDecode : Obligations.ExampleWordsDecode :=
  ⟨decodeWord_encodeWord (i := .br 1) rfl, decodeWord_encodeWord (i := .cx 0b1111) rfl,
    decodeWord_encodeWord (i := .sx 0b0010) rfl, decodeWord_encodeWord (i := .iot) rfl,
    decodeWord_encodeWord (i := .tstb ⟨.autoInc, .r6⟩) rfl,
    decodeWord_encodeWord (i := .jmp ⟨.autoIncDeferred, .r7⟩) rfl,
    decodeWord_encodeWord (i := .div .r0 ⟨.register, .r2⟩) rfl, decodeWord_encodeWord (i := .sob .r0 3) rfl,
    decodeWord_encodeWord (i := .mov ⟨.index, .r0⟩ ⟨.index, .r1⟩) rfl,
    decodeWord_encodeWord (i := .sub ⟨.register, .r1⟩ ⟨.register, .r2⟩) rfl,
    decodeWord_encodeWord (i := .jsr .r5 ⟨.indexDeferred, .r7⟩) rfl, decodeWord_encodeWord (i := .rts .r5) rfl,
    decodeWord_encodeWord (i := .mark 2) rfl, decodeWord_of_unclaimed (by decide)⟩

end Sys2Proof.Machine
end
